-- ==== Sys2Proof/Config.lean ====
section
/-! DEFINITION. The implementation parameters of 00_scope.md R6, fixed for this hardware (log 10).
The spec leaves no value free, so there is no free value here. -/

namespace Sys2Proof.Config

/-- `NCH_MAX`: entries of the Channel Table (R6, R21). -/
def nchMax : Nat := 6
/-- `NPIN`: eligible pins, PinIds 0..5 (R6). -/
def nPin : Nat := 6
/-- `TICKS_PER_US` (R6). -/
def ticksPerUs : Nat := 24
/-- `TARGET_MAX_US` (R6). -/
def targetMaxUs : Nat := 2500
/-- `TARGET_MAX` = 2500 × 24 (R6). -/
def targetMax : Nat := 60000
/-- `CNT_BITS`: width of the hardware counter (R6, D2). -/
def cntBits : Nat := 16
/-- `WRAPS`: counter cycles in one period (R6, D3). -/
def wraps : Nat := 7
/-- `PERIOD_TICKS` = 65536 × 7 (R6, R7). -/
def periodTicks : Nat := 458752
/-- `STOP_BOUND_TICKS`: DDM's ceiling of ≈2.8 ms in ticks (R6, R7). -/
def stopBoundTicks : Nat := 67200
/-- `SPEED_MAX` = 2^16 − 1: every 16-bit speed is legal (R6, R25). -/
def speedMax : Nat := 65535
/-- `CMD_BITS`: the one length of a command (R6, R80). -/
def cmdBits : Nat := 32

/-- The constraints of R6's last column hold of the values above. -/
theorem parameters_consistent :
    2 ^ cntBits * wraps = periodTicks ∧ 2 ≤ wraps ∧ targetMax < periodTicks ∧
      targetMax = targetMaxUs * ticksPerUs ∧ targetMax < stopBoundTicks ∧ speedMax = 2 ^ 16 - 1 := by
  decide

end Sys2Proof.Config
end

