-- ==== Sys2Proof/Word.lean ====
section
/-! DEFINITION. The block's word types (10_state.md, decision D4). Every quantity is unsigned (R8). -/

namespace Sys2Proof

/-- The command word `cmd_word[31:0]` (R80). -/
abbrev CmdWord := BitVec 32

/-- A 16-bit quantity: `target`, `position`, `speed`, `cnt`, `val`, `rsp_data`, a fall time (R23 to R25, R32, R34, R88). -/
abbrev Half := BitVec 16

/-- A 3-bit index: a servo number `num`, a PinId, `count`, `wrap` (R22, R26, R33, R60). -/
abbrev Index := BitVec 3

end Sys2Proof
end

