-- ==== Sys2Proof/Syntax.lean ====
section
/-! DEFINITION. The thirteen commands (R80, R85), one constructor per row of spec/opcode_table.json, and the
six contract violations (R182). A command carries its operand fields as R87 takes them from the word, with no
check: the checks of R110 and R130 belong to the meanings. -/

namespace Sys2Proof

/-- A host command. `num` is the servo number, `val` the 16-bit operand (R82, R83). -/
inductive Instr where
  /-- START.LIST: `n` pins in the slots `p0`..`p5` (R84, R110, R111). -/
  | startList (n p0 p1 p2 p3 p4 p5 : Index)
  /-- START.KEEP: the "no list" sentinel (R84, R112). -/
  | startKeep
  /-- STOP (R114). -/
  | stop
  /-- IS_STARTED (R116). -/
  | isStarted
  /-- IS_MOVING (R117). -/
  | isMoving
  /-- SET_TARGET: `val` in microseconds (R134). -/
  | setTarget (num : Index) (val : Half)
  /-- GET_TARGET (R136). -/
  | getTarget (num : Index)
  /-- SET_SPEED: `val` in ticks per period (R138). -/
  | setSpeed (num : Index) (val : Half)
  /-- GET_SPEED (R139). -/
  | getSpeed (num : Index)
  /-- GET_POSITION (R140). -/
  | getPosition (num : Index)
  /-- SET_TARGET_HR: `val` in ticks (R135). -/
  | setTargetHr (num : Index) (val : Half)
  /-- GET_TARGET_HR (R137). -/
  | getTargetHr (num : Index)
  /-- GET_POSITION_HR (R141). -/
  | getPositionHr (num : Index)
  deriving DecidableEq, Repr

/-- A contract violation (R182). Code 0 is "no violation" and code 7 is never produced, so neither is a value (U11). -/
inductive Violation where
  | eOpcode | eReserved | eCount | ePin | eDup | eNum
  deriving DecidableEq, Repr

end Sys2Proof
end

