-- ==== Sys2Proof/WellFormed.lean ====
section
/-! DEFINITION. A command is well formed when its operand fields are legal whatever the block's state:
the list conditions of R110 for START.LIST, and a servo number that some `count ≤ 6` admits for the channel
commands (R130: "6 and 7 are always refused"; log 8). -/

namespace Sys2Proof

/-- R110: between one and six pins. -/
def countLegal (n : Index) : Bool := 1 ≤ n.toNat && n.toNat ≤ 6

/-- R84, R90: every slot past the list is zero. -/
def unusedSlotsZero (n : Index) (slots : List Index) : Bool := (slots.drop n.toNat).all (· == 0)

/-- R110: every listed PinId is eligible. -/
def listedPinsEligible (n : Index) (slots : List Index) : Bool := (slots.take n.toNat).all (·.toNat ≤ 5)

/-- R110: no PinId is listed twice. -/
def listedPinsDistinct (n : Index) (slots : List Index) : Bool := decide (slots.take n.toNat).Nodup

/-- R130: the servo number can be below `count` at all. -/
def servoEncodable (num : Index) : Bool := num.toNat ≤ 5

/-- The legality of a command's fields. -/
def Instr.wellFormed : Instr → Bool
  | .startList n p0 p1 p2 p3 p4 p5 =>
    countLegal n && unusedSlotsZero n [p0, p1, p2, p3, p4, p5] &&
      listedPinsEligible n [p0, p1, p2, p3, p4, p5] && listedPinsDistinct n [p0, p1, p2, p3, p4, p5]
  | .startKeep => true
  | .stop => true
  | .isStarted => true
  | .isMoving => true
  | .setTarget num _ => servoEncodable num
  | .getTarget num => servoEncodable num
  | .setSpeed num _ => servoEncodable num
  | .getSpeed num => servoEncodable num
  | .getPosition num => servoEncodable num
  | .setTargetHr num _ => servoEncodable num
  | .getTargetHr num => servoEncodable num
  | .getPositionHr num => servoEncodable num

/-- The command has legal fields. -/
abbrev WellFormed (i : Instr) : Prop := i.wellFormed = true

end Sys2Proof
end

