-- ==== Sys2Proof/Decode.lean ====
section
/-! DEFINITION. Decoding a command word (R80 to R92), total on all 2^32 words, and the encoder.
The decoder does the tests of R92 that need only the word's fixed fields (R86: `E_OPCODE`, `E_RESERVED`); the
tests on the values of START.LIST's fields (R110) and on `num` (R130) are the meanings' own, in the same
priority (log 7). -/

namespace Sys2Proof

/-- `op = cmd_word[31:28]` (R80). -/
def opField (w : CmdWord) : BitVec 4 := w.extractLsb' 28 4
/-- `num = cmd_word[18:16]` (R87). -/
def numField (w : CmdWord) : Index := w.extractLsb' 16 3
/-- `val = cmd_word[15:0]` (R87). -/
def valField (w : CmdWord) : Half := w.extractLsb' 0 16
/-- `n = cmd_word[20:18]` (R87). -/
def countField (w : CmdWord) : Index := w.extractLsb' 18 3
/-- `pj = cmd_word[3j+2:3j]` (R87). -/
def pinField (w : CmdWord) (j : Nat) : Index := w.extractLsb' (3 * j) 3

/-- R89: the reserved values of `op`. -/
def opReserved (op : BitVec 4) : Bool := op == 0x0#4 || op == 0xD#4 || op == 0xE#4 || op == 0xF#4

/-- Format S (R84): `keep` selects the form. -/
def decodeStart (w : CmdWord) : Except Violation Instr :=
  if w.extractLsb' 22 6 ≠ 0#6 then .error .eReserved
  else if w.extractLsb' 21 1 = 1#1 then
    if w.extractLsb' 0 21 = 0#21 then .ok .startKeep else .error .eReserved
  else
    .ok (.startList (countField w) (pinField w 0) (pinField w 1) (pinField w 2) (pinField w 3) (pinField w 4)
      (pinField w 5))

/-- Format N (R81): bits 27:0 are zero. -/
def decodeN (w : CmdWord) (i : Instr) : Except Violation Instr :=
  if w.extractLsb' 0 28 = 0#28 then .ok i else .error .eReserved

/-- Format C (R82): bits 27:19 and 15:0 are zero. -/
def decodeC (w : CmdWord) (i : Index → Instr) : Except Violation Instr :=
  if w.extractLsb' 19 9 = 0#9 ∧ w.extractLsb' 0 16 = 0#16 then .ok (i (numField w)) else .error .eReserved

/-- Format V (R83): bits 27:19 are zero. -/
def decodeV (w : CmdWord) (i : Index → Half → Instr) : Except Violation Instr :=
  if w.extractLsb' 19 9 = 0#9 then .ok (i (numField w) (valField w)) else .error .eReserved

/-- The decoder: `op` first, then the fixed fields of its format (R85, R92). -/
def decode (w : CmdWord) : Except Violation Instr :=
  if opReserved (opField w) then .error .eOpcode
  else if opField w = 0x1#4 then decodeStart w
  else if opField w = 0x2#4 then decodeN w .stop
  else if opField w = 0x3#4 then decodeN w .isStarted
  else if opField w = 0x4#4 then decodeN w .isMoving
  else if opField w = 0x5#4 then decodeV w .setTarget
  else if opField w = 0x6#4 then decodeC w .getTarget
  else if opField w = 0x7#4 then decodeV w .setSpeed
  else if opField w = 0x8#4 then decodeC w .getSpeed
  else if opField w = 0x9#4 then decodeC w .getPosition
  else if opField w = 0xA#4 then decodeV w .setTargetHr
  else if opField w = 0xB#4 then decodeC w .getTargetHr
  else decodeC w .getPositionHr

/-- Format N (R81): `op` at bit 28, the rest zero. -/
def encodeN (op : BitVec 4) : CmdWord := .ofNat 32 (op.toNat * 2 ^ 28)
/-- Format C (R82): `num` at bit 16. -/
def encodeC (op : BitVec 4) (num : Index) : CmdWord := .ofNat 32 (op.toNat * 2 ^ 28 + num.toNat * 2 ^ 16)
/-- Format V (R83): `num` at bit 16, `val` at bit 0. -/
def encodeV (op : BitVec 4) (num : Index) (val : Half) : CmdWord :=
  .ofNat 32 (op.toNat * 2 ^ 28 + num.toNat * 2 ^ 16 + val.toNat)
/-- Format S (R84): `op` = 1, `keep` at bit 21, `n` at bit 18, slot `pj` at bit 3j. -/
def encodeS (keep : BitVec 1) (n p0 p1 p2 p3 p4 p5 : Index) : CmdWord :=
  .ofNat 32 (2 ^ 28 + keep.toNat * 2 ^ 21 + n.toNat * 2 ^ 18 + p5.toNat * 2 ^ 15 + p4.toNat * 2 ^ 12 +
    p3.toNat * 2 ^ 9 + p2.toNat * 2 ^ 6 + p1.toNat * 2 ^ 3 + p0.toNat)

/-- The word of a command (R81 to R85). -/
def encode : Instr → CmdWord
  | .startList n p0 p1 p2 p3 p4 p5 => encodeS 0#1 n p0 p1 p2 p3 p4 p5
  | .startKeep => encodeS 1#1 0 0 0 0 0 0 0
  | .stop => encodeN 0x2#4
  | .isStarted => encodeN 0x3#4
  | .isMoving => encodeN 0x4#4
  | .setTarget num val => encodeV 0x5#4 num val
  | .getTarget num => encodeC 0x6#4 num
  | .setSpeed num val => encodeV 0x7#4 num val
  | .getSpeed num => encodeC 0x8#4 num
  | .getPosition num => encodeC 0x9#4 num
  | .setTargetHr num val => encodeV 0xA#4 num val
  | .getTargetHr num => encodeC 0xB#4 num
  | .getPositionHr num => encodeC 0xC#4 num

/-- R86: the row (match, mask) of a command, as in spec/opcode_table.json. -/
def Instr.tableRow : Instr → CmdWord × CmdWord
  | .startList .. => (0x10000000, 0xFFE00000)
  | .startKeep => (0x10200000, 0xFFFFFFFF)
  | .stop => (0x20000000, 0xFFFFFFFF)
  | .isStarted => (0x30000000, 0xFFFFFFFF)
  | .isMoving => (0x40000000, 0xFFFFFFFF)
  | .setTarget .. => (0x50000000, 0xFFF80000)
  | .getTarget .. => (0x60000000, 0xFFF8FFFF)
  | .setSpeed .. => (0x70000000, 0xFFF80000)
  | .getSpeed .. => (0x80000000, 0xFFF8FFFF)
  | .getPosition .. => (0x90000000, 0xFFF8FFFF)
  | .setTargetHr .. => (0xA0000000, 0xFFF80000)
  | .getTargetHr .. => (0xB0000000, 0xFFF8FFFF)
  | .getPositionHr .. => (0xC0000000, 0xFFF8FFFF)

/-- The value of `rsp_err` for a violation (R182). -/
def Violation.code : Violation → BitVec 3
  | .eOpcode => 1
  | .eReserved => 2
  | .eCount => 3
  | .ePin => 4
  | .eDup => 5
  | .eNum => 6

/-- What the decoder reads from an instruction of the opcode table whose bits are `w` (one 32-bit word, R80). -/
def decodeTableWord (nbits w : Nat) : Option Instr :=
  (decode (BitVec.ofNat 32 (w % 2 ^ nbits))).toOption

end Sys2Proof
end

