-- ==== Sys2Proof/Machine/State.lean ====
section
/-! DEFINITION. Every piece of state the spec gives the block (10_state.md, R211), as plain data, the state after
reset, and the two reason types of a step. INVENTORY.md lists the fields with their rules. -/

namespace Sys2Proof.Machine

/-- One entry of the Channel Table (R21 to R25). -/
structure Channel where
  /-- The PinId of this channel (R22). -/
  pin : Index
  /-- Commanded pulse width in ticks (R23). -/
  target : Half
  /-- Pulse width being emitted, in ticks (R24). -/
  position : Half
  /-- Largest change of `position` per period; 0 is unlimited (R25). -/
  speed : Half
  deriving DecidableEq, Repr

/-- The Channel Table: six entries, indexed by servo number (R21). -/
structure Table where
  c0 : Channel
  c1 : Channel
  c2 : Channel
  c3 : Channel
  c4 : Channel
  c5 : Channel
  deriving DecidableEq, Repr

/-- A fall event: drive `pin` low `t` ticks after period start (R34). -/
structure FallEvent where
  t : Half
  pin : Index
  deriving DecidableEq, Repr

/-- The response of a completed command: `err = none` is `rsp_err = 0` (R88, R182). -/
structure Response where
  err : Option Violation
  data : Half
  deriving DecidableEq, Repr

/-- What the host does in one step of the machine (R20, R63, R64; log 2). -/
inductive HostInput where
  /-- One rising clock edge with these values on the input ports. -/
  | edge (rst cmdValid : Bool) (cmdWord : CmdWord)
  /-- The `cmd(w)` step of R64 alone, with no tick. -/
  | command (w : CmdWord)
  deriving DecidableEq, Repr

/-- The state of the block (R11, R211), with the host's coming inputs. -/
structure State where
  /-- The Channel Table (R21). -/
  table : Table
  /-- Number of configured channels (R26). -/
  count : Index
  /-- The timer is active (R27). -/
  started : Bool
  /-- The aggregate behind IS_MOVING (R28). -/
  moving : Bool
  /-- A STOP waits for the pulses in flight (R29). -/
  stopPending : Bool
  /-- Sticky contract-violation flag (R30). -/
  viol : Bool
  /-- The free-running counter (R32). -/
  cnt : Half
  /-- The wrap counter (R33). -/
  wrap : Index
  /-- The fall queue, head first (R34). -/
  fq : List FallEvent
  /-- Levels of PinIds 0..5 (R36). -/
  pinOut : BitVec 6
  /-- Output enables of PinIds 0..5 (R37). -/
  pinOe : BitVec 6
  /-- The response on the port in this clock period; `none` is `rsp_valid = 0` (R20; log 4). -/
  rsp : Option Response
  /-- The model's own field: the host's inputs on the coming steps (log 3). -/
  hostInputs : List HostInput
  deriving DecidableEq, Repr

/-- Why a step could stop. The spec describes no stop: the tick step "has no error path" (R167) and a violating
command is answered and goes on (R181, R185). So there is no reason, nothing raises one, and every claim that
a step goes on is about every state. -/
inductive Fault where
  deriving DecidableEq, Repr

/-- Why the model could give no meaning. -/
inductive Refusal where
  /-- Raised by an arm of `exec` whose instruction has no meaning yet (no arm now). Safe: the run stops. -/
  | notModelled (mnemonic : String)
  deriving DecidableEq, Repr

/-- A zeroed entry of the Channel Table (R111, R211). -/
def Channel.zero : Channel := ⟨0, 0, 0, 0⟩

/-- The state right after reset: everything zero, `fq` empty, no response (R210, R211); no input listed (log 3). -/
def State.reset : State where
  table := ⟨.zero, .zero, .zero, .zero, .zero, .zero⟩
  count := 0
  started := false
  moving := false
  stopPending := false
  viol := false
  cnt := 0
  wrap := 0
  fq := []
  pinOut := 0
  pinOe := 0
  rsp := none
  hostInputs := []

end Sys2Proof.Machine
end

