-- ==== Sys2Proof/Machine/Ops.lean ====
section
/-! DEFINITION. The operations the meanings and the tick step share: table and pin access, the views, the response,
raising a contract violation (the block's exception, R181), enabling the timer, completing a STOP, the timeline. -/

namespace Sys2Proof.Machine

/-- The type of a meaning's answer. -/
abbrev Result := Host.Outcome State Fault Refusal

/-- Entry `i` of the Channel Table (R21). -/
def Table.get (t : Table) (i : Fin 6) : Channel :=
  match i.val with
  | 0 => t.c0
  | 1 => t.c1
  | 2 => t.c2
  | 3 => t.c3
  | 4 => t.c4
  | _ => t.c5

/-- The table whose entry `i` is `f i`. -/
def Table.tabulate (f : Fin 6 → Channel) : Table := ⟨f 0, f 1, f 2, f 3, f 4, f 5⟩

/-- Write entry `i`, leaving the others. -/
def Table.set (t : Table) (i : Fin 6) (c : Channel) : Table :=
  .tabulate fun j => if j = i then c else t.get j

/-- Entry `i` of the block's table. -/
def State.chan (s : State) (i : Fin 6) : Channel := s.table.get i

/-- Write entry `i` of the block's table. -/
def State.setChan (s : State) (i : Fin 6) (c : Channel) : State := { s with table := s.table.set i c }

/-- `i` is the servo number of a configured channel: `i < count` (R21). -/
abbrev State.Configured (s : State) (i : Fin 6) : Prop := i.val < s.count.toNat

/-- The configured servo numbers in ascending order: the loop `for i in 0..count-1`. -/
def State.servos (s : State) : List (Fin 6) := [0, 1, 2, 3, 4, 5].filter fun i => i.val < s.count.toNat

/-- The one-bit mask of PinId `p` among six pins; PinIds 6 and 7 name no pin (log 6). -/
def pinMask (p : Index) : BitVec 6 := 1#6 <<< p.toNat

/-- `v[p] <- 1` for the six pins. -/
def pinSet (v : BitVec 6) (p : Index) : BitVec 6 := v ||| pinMask p

/-- `v[p] <- 0` for the six pins. -/
def pinClear (v : BitVec 6) (p : Index) : BitVec 6 := v &&& ~~~pinMask p

/-- The view `phase = wrap × 65536 + cnt`: ticks since the period began (R31). -/
def State.phase (s : State) : Nat := s.wrap.toNat * 2 ^ Config.cntBits + s.cnt.toNat

/-- The view `cmd_ready = not stop_pending` (R20, R29). -/
def State.cmdReady (s : State) : Bool := !s.stopPending

/-- The compare unit: the fall time of the head of `fq`; `none` is `cmp_en = 0` (R35). -/
def State.cmp (s : State) : Option Half := s.fq.head?.map (·.t)

/-- The output port `rsp_valid` (R20). -/
def State.rspValid (s : State) : Bool := s.rsp.isSome

/-- The output port `rsp_err`, defined while `rsp_valid` (R20, R182; log 4). -/
def State.rspErr (s : State) : Option (BitVec 3) :=
  s.rsp.map fun r => match r.err with
    | none => 0
    | some v => v.code

/-- The output port `rsp_data`, defined while `rsp_valid` (R20, R88; log 4). -/
def State.rspData (s : State) : Option Half := s.rsp.map (·.data)

/-- `respond(data)`: the command completes with error code 0 (R9, R88). -/
def State.respond (s : State) (data : Half) : State := { s with rsp := some ⟨none, data⟩ }

/-- `raise ContractViolation(code)`: the command is refused, writes nothing but `viol`, and answers `(code, 0)`
(R181). -/
def State.raiseViolation (s : State) (v : Violation) : State := { s with viol := true, rsp := some ⟨some v, 0⟩ }

/-- The servo-number check of every channel command: `E_NUM` unless `num < count` (R130). Servo numbers 6 and 7
"are always refused", also where `count` holds the never-stored 7. -/
def State.withChannel (s : State) (num : Index) (k : Fin 6 → State) : State :=
  if h : num.toNat < 6 then
    if num.toNat < s.count.toNat then k ⟨num.toNat, h⟩ else s.raiseViolation .eNum
  else s.raiseViolation .eNum

/-- `enable_timer()` (R113). -/
def State.enableTimer (s : State) : State :=
  if s.started then s else { s with cnt := 0, wrap := 0, started := true }

/-- `complete_stop()`: disable the timer, drive every configured pin low, respond (R115). -/
def State.completeStop (s : State) : State :=
  { s with
    started := false
    stopPending := false
    pinOut := s.servos.foldl (fun v i => pinClear v (s.chan i).pin) s.pinOut
    rsp := some ⟨none, 0⟩ }

/-- `advance_timeline()` (R160). -/
def State.advanceTimeline (s : State) : State :=
  if s.cnt.toNat = 2 ^ Config.cntBits - 1 then
    { s with cnt := 0, wrap := if s.wrap.toNat = Config.wraps - 1 then 0 else s.wrap + 1 }
  else { s with cnt := s.cnt + 1 }

end Sys2Proof.Machine
end

