-- ==== Sys2Proof/Machine/Flags.lean ====
section
/-! DEFINITION. The computations of the `moving` flag (R28, R133, R154). `started` and `stop_pending` are set and
cleared by the shared operations of Ops.lean, `viol` by `raiseViolation` there (R181). -/

namespace Sys2Proof.Machine

/-- `position ≠ target`. -/
def Channel.differs (c : Channel) : Bool := c.position != c.target

/-- Some configured channel has `position ≠ target` (R154). -/
def State.anyDiffers (s : State) : Bool := s.servos.any fun i => (s.chan i).differs

/-- R133: a set-target that leaves a difference sets `moving`, and never clears it. -/
def State.noteDifference (s : State) (i : Fin 6) : State := { s with moving := s.moving || (s.chan i).differs }

end Sys2Proof.Machine
end

