-- ==== Sys2Proof/Machine/Operands.lean ====
section
/-! DEFINITION. Operand forms: START.LIST's pin list (R84, R110), unit conversion and clamps (R131, R142), the
16-bit form of a boolean (R88). Arithmetic is exact on natural numbers and narrowed at the end (R8). -/

namespace Sys2Proof.Machine

/-- The checks of R110, in its order; `none` is a valid list. -/
def startListViolation (n : Index) (slots : List Index) : Option Violation :=
  if ¬(1 ≤ n.toNat ∧ n.toNat ≤ 6) then some .eCount
  else if (slots.drop n.toNat).any (· != 0) then some .eReserved
  else if (slots.take n.toNat).any (·.toNat > 5) then some .ePin
  else if ¬(slots.take n.toNat).Nodup then some .eDup
  else none

/-- `ticks_of_us`: clamp to 2500 µs, then × 24 (R131). -/
def ticksOfUs (us : Half) : Half := .ofNat 16 (min us.toNat Config.targetMaxUs * Config.ticksPerUs)

/-- `ticks_of_hr`: clamp to 60000 ticks (R131). -/
def ticksOfHr (ticks : Half) : Half := .ofNat 16 (min ticks.toNat Config.targetMax)

/-- `us_of_ticks`: floor division by 24 (R131, D13). -/
def usOfTicks (ticks : Half) : Half := .ofNat 16 (ticks.toNat / Config.ticksPerUs)

/-- Booleans are returned as 0x0000 or 0x0001 (R88). -/
def boolData (b : Bool) : Half := if b then 1 else 0

end Sys2Proof.Machine
end

