-- ==== Sys2Proof/Machine/ChannelAccess.lean ====
section
/-! DEFINITION. The channel access commands (41_channel_access.md). Each begins with the servo-number check R130. -/

namespace Sys2Proof.Machine

/-- `set_target_ticks`: `target`, and on the fast path `position` too, in one step (R132, R68). -/
def Channel.setTargetTicks (c : Channel) (tt : Half) : Channel :=
  { c with target := tt, position := if c.speed = 0 ∨ c.position = 0 ∨ tt = 0 then tt else c.position }

/-- What SET_TARGET and SET_TARGET_HR share: R132, then R133, then the response. -/
def State.setTarget (s : State) (i : Fin 6) (tt : Half) : State :=
  ((s.setChan i ((s.chan i).setTargetTicks tt)).noteDifference i).respond 0

/-- SET_TARGET (R134). -/
def execSetTarget (num : Index) (val : Half) (s : State) : Result :=
  .next (s.withChannel num fun i => s.setTarget i (ticksOfUs val))

/-- SET_TARGET_HR (R135). -/
def execSetTargetHr (num : Index) (val : Half) (s : State) : Result :=
  .next (s.withChannel num fun i => s.setTarget i (ticksOfHr val))

/-- GET_TARGET (R136). -/
def execGetTarget (num : Index) (s : State) : Result :=
  .next (s.withChannel num fun i => s.respond (usOfTicks (s.chan i).target))

/-- GET_TARGET_HR (R137). -/
def execGetTargetHr (num : Index) (s : State) : Result :=
  .next (s.withChannel num fun i => s.respond (s.chan i).target)

/-- SET_SPEED (R138). -/
def execSetSpeed (num : Index) (val : Half) (s : State) : Result :=
  .next (s.withChannel num fun i => (s.setChan i { s.chan i with speed := val }).respond 0)

/-- GET_SPEED (R139). -/
def execGetSpeed (num : Index) (s : State) : Result :=
  .next (s.withChannel num fun i => s.respond (s.chan i).speed)

/-- GET_POSITION (R140). -/
def execGetPosition (num : Index) (s : State) : Result :=
  .next (s.withChannel num fun i => s.respond (usOfTicks (s.chan i).position))

/-- GET_POSITION_HR (R141). -/
def execGetPositionHr (num : Index) (s : State) : Result :=
  .next (s.withChannel num fun i => s.respond (s.chan i).position)

end Sys2Proof.Machine
end

