-- ==== Sys2Proof/Machine/Lifecycle.lean ====
section
/-! DEFINITION. The lifecycle and status commands (40_lifecycle.md): START.LIST, START.KEEP, STOP, IS_STARTED,
IS_MOVING. -/

namespace Sys2Proof.Machine

/-- R111, before the timer is enabled: the table is replaced and zeroed, the listed pins become outputs. -/
def State.configure (s : State) (n : Index) (slots : List Index) : State :=
  { s with
    table := .tabulate fun i =>
      { Channel.zero with pin := if i.val < n.toNat then slots.getD i.val 0 else 0 }
    count := n
    moving := false
    pinOe := (slots.take n.toNat).foldl pinSet s.pinOe }

/-- START.LIST: the checks of R110, then the effect of R111; also while started (R118). -/
def execStartList (n p0 p1 p2 p3 p4 p5 : Index) (s : State) : Result :=
  match startListViolation n [p0, p1, p2, p3, p4, p5] with
  | some v => .next (s.raiseViolation v)
  | none => .next ((s.configure n [p0, p1, p2, p3, p4, p5]).enableTimer.respond 0)

/-- START.KEEP (R112). -/
def execStartKeep (s : State) : Result := .next (s.enableTimer.respond 0)

/-- STOP: nothing to stop, stop at once, or wait for the pulses in flight (R114). -/
def execStop (s : State) : Result :=
  if !s.started then .next (s.respond 0)
  else if s.fq.isEmpty then .next s.completeStop
  else .next { s with stopPending := true }

/-- IS_STARTED (R116). -/
def execIsStarted (s : State) : Result := .next (s.respond (boolData s.started))

/-- IS_MOVING: the aggregate bit, not a fresh comparison (R117). -/
def execIsMoving (s : State) : Result := .next (s.respond (boolData s.moving))

end Sys2Proof.Machine
end

