-- ==== Sys2Proof/Machine/Dispatch.lean ====
section
/-! DEFINITION. The meaning of each command: one arm per constructor of Instr. -/

namespace Sys2Proof.Machine

-- The command step of an accepted, decoded command (R61, R62); the tick of the same edge is Scheduler.lean's.
def exec (i : Instr) (s : State) : Host.Outcome State Fault Refusal :=
  match i with
  | .startList n p0 p1 p2 p3 p4 p5 => Sys2Proof.Machine.execStartList n p0 p1 p2 p3 p4 p5 s
  | .startKeep => Sys2Proof.Machine.execStartKeep s
  | .stop => Sys2Proof.Machine.execStop s
  | .isStarted => Sys2Proof.Machine.execIsStarted s
  | .isMoving => Sys2Proof.Machine.execIsMoving s
  | .setTarget num val => Sys2Proof.Machine.execSetTarget num val s
  | .getTarget num => Sys2Proof.Machine.execGetTarget num s
  | .setSpeed num val => Sys2Proof.Machine.execSetSpeed num val s
  | .getSpeed num => Sys2Proof.Machine.execGetSpeed num s
  | .getPosition num => Sys2Proof.Machine.execGetPosition num s
  | .setTargetHr num val => Sys2Proof.Machine.execSetTargetHr num val s
  | .getTargetHr num => Sys2Proof.Machine.execGetTargetHr num s
  | .getPositionHr num => Sys2Proof.Machine.execGetPositionHr num s

end Sys2Proof.Machine
end

