-- ==== Sys2Proof/Machine/Scheduler.lean ====
section
/-! DEFINITION. The background agent: the tick step (42_scheduler.md, R150) and its parts. -/

namespace Sys2Proof.Machine

/-- One channel's interpolation step on exact numbers: at most `speed` ticks toward `target`, never past it
(R155). -/
def nextPosition (position target speed : Nat) : Nat :=
  if speed = 0 then position
  else if target > position then min (position + speed) target
  else if position - target ≤ speed then target
  else position - speed

/-- `step_channel` (R155). -/
def Channel.interpolate (c : Channel) : Channel :=
  { c with position := .ofNat 16 (nextPosition c.position.toNat c.target.toNat c.speed.toNat) }

/-- `interpolate()`: every configured channel that differs from its target takes its step, and `moving` says whether
one differed when the pass began (R154, R155). -/
def State.interpolate (s : State) : State :=
  { s with
    table := .tabulate fun i =>
      if s.Configured i ∧ (s.chan i).differs then (s.chan i).interpolate else s.chan i
    moving := s.anyDiffers }

/-- Insert a fall event after every entry with `t' ≤ t` (R156). -/
def insertFall (e : FallEvent) : List FallEvent → List FallEvent
  | [] => [e]
  | x :: xs => if x.t.toNat ≤ e.t.toNat then x :: insertFall e xs else e :: x :: xs

/-- One turn of EmitEdges's loop: a channel with `position > 0` raises its pin and enters the queue (R156). -/
def emitChannel (acc : BitVec 6 × List FallEvent) (c : Channel) : BitVec 6 × List FallEvent :=
  if c.position = 0 then acc else (pinSet acc.1 c.pin, insertFall ⟨c.position, c.pin⟩ acc.2)

/-- `emit_edges()` (R156). -/
def State.emitEdges (s : State) : State :=
  let r := s.servos.foldl (fun acc i => emitChannel acc (s.chan i)) (s.pinOut, [])
  { s with pinOut := r.1, fq := r.2 }

/-- The loop of fall service: while the head's time is `p`, lower its pin and remove it (R158). -/
def serviceLoop (p : Nat) : List FallEvent → BitVec 6 → List FallEvent × BitVec 6
  | [], out => ([], out)
  | e :: rest, out => if e.t.toNat = p then serviceLoop p rest (pinClear out e.pin) else (e :: rest, out)

/-- `service_falls(p)`, comparing the whole phase (R158). -/
def State.serviceFalls (s : State) (p : Nat) : State :=
  let r := serviceLoop p s.fq s.pinOut
  { s with fq := r.1, pinOut := r.2 }

/-- The PeriodStart work: Interpolate, then EmitEdges (R152, R153). -/
def State.periodStart (s : State) : State := s.interpolate.emitEdges

/-- The end of a tick step: finish a drained STOP, or advance the timeline (R150, R159). -/
def State.finishTick (s : State) : State :=
  if s.stopPending && s.fq.isEmpty then s.completeStop else s.advanceTimeline

/-- `tick()` (R150). While stopped it changes nothing (R151). -/
def State.tick (s : State) : State :=
  if !s.started then s
  else if s.phase = 0 ∧ s.stopPending = false then (s.periodStart.serviceFalls 0).finishTick
  else (s.serviceFalls s.phase).finishTick

end Sys2Proof.Machine
end

