-- ==== Sys2Proof/Machine/Command.lean ====
section
/-! DEFINITION. What one host input does: accepting a command word, a clock edge, the bare command step of R64
(20_memory.md R61 to R64, R188). -/

namespace Sys2Proof.Machine

/-- The command step for an accepted word: refused by the decoder, or executed (R92, R181). -/
def State.acceptCommand (s : State) (w : CmdWord) : Result :=
  match decode w with
  | .error v => .next (s.raiseViolation v)
  | .ok i => exec i s

/-- The tick step of the same edge, on the result of the command step (R63). -/
def thenTick : Result → Result
  | .next s => .next s.tick
  | .fault r => .fault r
  | .refused r => .refused r

/-- One rising clock edge with these port values: reset over everything, then the accepted command, then the tick
(R63, R188, R210). A word presented while `cmd_ready = 0` has no effect (U14; log 5). -/
def State.clockEdge (s : State) (rst cmdValid : Bool) (w : CmdWord) : Result :=
  if rst then .next { State.reset with hostInputs := s.hostInputs }
  else if cmdValid && s.cmdReady then thenTick (s.acceptCommand w)
  else .next s.tick

/-- The `cmd(w)` step of R64 alone; there is none while `stop_pending = 1`. -/
def State.commandStep (s : State) (w : CmdWord) : Result :=
  if s.cmdReady then s.acceptCommand w else .next s

/-- What the machine does on one host input. -/
def State.runInput (s : State) : HostInput → Result
  | .edge rst cmdValid w => s.clockEdge rst cmdValid w
  | .command w => s.commandStep w

/-- The next host input and the rest: a host with no input listed is silent, and the clock runs on (R12, R64). -/
def takeInput : List HostInput → HostInput × List HostInput
  | [] => (.edge false false 0, [])
  | x :: rest => (x, rest)

/-- The start of a step: its input is taken, and the response of the last step leaves the port, since `rsp_valid` is
"high for the one clock period after an edge on which a command completed" (R20). -/
def State.beginStep (s : State) (rest : List HostInput) : State := { s with hostInputs := rest, rsp := none }

end Sys2Proof.Machine
end

