-- ==== Sys2Proof/Machine/Step.lean ====
section
/-! DEFINITION. One step of the machine, and how a command word is presented to the next step (log 9). -/

namespace Sys2Proof.Machine

/-- One step: the next host input is taken and run (R63, R64). -/
def step (s : State) : Host.Outcome State Fault Refusal :=
  (s.beginStep (takeInput s.hostInputs).2).runInput (takeInput s.hostInputs).1

/-- `s` with the command word `w` as the host's next input, so that the next step runs exactly it. -/
def State.withFetchWord (s : State) (nbits w : Nat) : State :=
  { s with hostInputs := .command (BitVec.ofNat 32 (w % 2 ^ nbits)) :: s.hostInputs }

end Sys2Proof.Machine
end

