-- ==== Sys2Proof/Safety.lean ====
section
/-! DEFINITION. What claims are stated in: the host's contract (R180, U1), the block's invariants (R38 to R46), and
runs of several steps. -/

namespace Sys2Proof.Machine

/-- No command since reset broke the contract: the fault bit is clear (R30, U1, R11). -/
def State.ContractKept (s : State) : Prop := s.viol = false

/-- The level of the six pins at PinId `p` (R36). -/
def State.pinHigh (s : State) (p : Nat) : Bool := s.pinOut.getLsbD p

/-- The invariants of 10_state.md section 7. -/
structure State.Inv (s : State) : Prop where
  /-- `count ≤ 6` (R38, R46). -/
  count_le : s.count.toNat ≤ 6
  /-- No two configured channels share a pin (R38). -/
  pins_distinct : ∀ i j : Fin 6, s.Configured i → s.Configured j → (s.chan i).pin = (s.chan j).pin → i = j
  /-- `pin[i] ≤ 5` (R46). -/
  pin_le : ∀ i : Fin 6, (s.chan i).pin.toNat ≤ 5
  /-- `target[i] ≤ 60000` (R38, R46). -/
  target_le : ∀ i : Fin 6, (s.chan i).target.toNat ≤ 60000
  /-- `position[i] ≤ 60000` (R38, R46). -/
  position_le : ∀ i : Fin 6, (s.chan i).position.toNat ≤ 60000
  /-- Entries past `count` are zero (R46). -/
  unused_zero : ∀ i : Fin 6, ¬s.Configured i → s.chan i = .zero
  /-- `wrap ≤ 6` (R46). -/
  wrap_le : s.wrap.toNat ≤ 6
  /-- `position[i] = 0` if and only if `target[i] = 0` (R39). -/
  zero_iff : ∀ i : Fin 6, s.Configured i → ((s.chan i).position = 0 ↔ (s.chan i).target = 0)
  /-- `fq` is sorted by `t` (R40). -/
  fq_sorted : s.fq.Pairwise fun a b => a.t.toNat ≤ b.t.toNat
  /-- `fq` has at most six entries (R40). -/
  fq_length : s.fq.length ≤ 6
  /-- Its pins are pairwise distinct (R40). -/
  fq_pins_distinct : (s.fq.map (·.pin)).Nodup
  /-- Its times are in 1..60000 and its pins in 0..5 (R40, R34). -/
  fq_range : ∀ e ∈ s.fq, 1 ≤ e.t.toNat ∧ e.t.toNat ≤ 60000 ∧ e.pin.toNat ≤ 5
  /-- A pin is high if and only if an entry of `fq` will lower it (R41). -/
  pin_high_iff : ∀ p : Fin 6, s.pinHigh p.val = true ↔ ∃ e ∈ s.fq, e.pin.toNat = p.val
  /-- With a pulse in flight the block is started and no deadline is missed (R42). -/
  fq_phase : ∀ e ∈ s.fq, s.started = true ∧ 1 ≤ s.phase ∧ s.phase ≤ e.t.toNat
  /-- A pending STOP waits for a pulse (R43). -/
  stop_pending : s.stopPending = true → s.started = true ∧ s.fq ≠ []
  /-- A difference shows in `moving` (R44). -/
  moving_of_differs : ∀ i : Fin 6, s.Configured i → (s.chan i).position ≠ (s.chan i).target → s.moving = true
  /-- A stopped block has no pulse, no pending STOP, and every pin low (R45). -/
  stopped : s.started = false → s.stopPending = false ∧ s.fq = [] ∧ s.pinOut = 0

/-- `k` steps of the machine. -/
abbrev runs (k : Nat) (s : State) : Result := Host.Core.run Sys2Proof.core k s

/-- The host asserts no reset on the coming steps and takes no bare command step: every listed input is one clock
edge, with any command word presented or none. -/
def State.PlainEdges (s : State) : Prop := ∀ x ∈ s.hostInputs, ∃ v w, x = .edge false v w

end Sys2Proof.Machine
end

