-- ==== Sys2Proof/Certificates/Slice0/Obligations.lean ====
section
/-! DEFINITION. The statements for the provers, from the numbered rules of spec/. The definitions under
`Sys2Proof.Spec` transcribe what the rules say in terms of numbers and fields, apart from the model's own
operations. No statement assumes a value that the spec leaves open. -/

open Sys2Proof Sys2Proof.Machine

/-! ## What the rules say -/

/-- R181: the command is refused; nothing is written but `viol`, and the response is `(code, 0)`. -/
def Sys2Proof.Spec.refused (s : State) (v : Violation) : State := { s with viol := true, rsp := some ⟨some v, 0⟩ }

/-- R9 `respond(data)`: the response `(0, data)` and nothing else. -/
def Sys2Proof.Spec.answered (s : State) (d : Half) : State := { s with rsp := some ⟨none, d⟩ }

/-- R130: `num` names no configured channel ("6 and 7 are always refused"). -/
def Sys2Proof.Spec.NumIllegal (s : State) (num : Index) : Prop := s.count.toNat ≤ num.toNat ∨ 6 ≤ num.toNat

/-- R130: `num` is the servo number `i` of a configured channel. -/
def Sys2Proof.Spec.Names (s : State) (num : Index) (i : Fin 6) : Prop := num.toNat = i.val ∧ i.val < s.count.toNat

/-- R110: the list of the first `n` slots is valid. -/
def Sys2Proof.Spec.ListValid (n : Index) (p : Fin 6 → Index) : Prop :=
  (1 ≤ n.toNat ∧ n.toNat ≤ 6) ∧ (∀ j : Fin 6, n.toNat ≤ j.val → p j = 0) ∧
    (∀ j : Fin 6, j.val < n.toNat → (p j).toNat ≤ 5) ∧
    ∀ j k : Fin 6, j < k → k.val < n.toNat → p j ≠ p k

/-- R87: slot `pj` of a command word. -/
def Sys2Proof.Spec.slot (w j : Nat) : Nat := w / 2 ^ (3 * j) % 8

/-- R92, the decoding procedure on the word as a number, with the fields of R81 to R84 by division. -/
def Sys2Proof.Spec.decodeProcedure (w count : Nat) : Except Violation Instr :=
  let op := w / 2 ^ 28
  let n := w / 2 ^ 18 % 8
  let num : Index := .ofNat 3 (w / 2 ^ 16 % 8)
  let val : Half := .ofNat 16 (w % 2 ^ 16)
  let p : Nat → Index := fun j => .ofNat 3 (Spec.slot w j)
  if op = 0x0 ∨ op = 0xD ∨ op = 0xE ∨ op = 0xF then .error .eOpcode
  else if op = 0x1 then
    if w / 2 ^ 22 % 2 ^ 6 ≠ 0 then .error .eReserved
    else if w / 2 ^ 21 % 2 = 1 then
      if w % 2 ^ 21 ≠ 0 then .error .eReserved else .ok .startKeep
    else if n = 0 ∨ n = 7 then .error .eCount
    else if ∃ j : Fin 6, n ≤ j.val ∧ Spec.slot w j ≠ 0 then .error .eReserved
    else if ∃ j : Fin 6, j.val < n ∧ Spec.slot w j > 5 then .error .ePin
    else if ∃ j k : Fin 6, j < k ∧ k.val < n ∧ Spec.slot w j = Spec.slot w k then .error .eDup
    else .ok (.startList (.ofNat 3 n) (p 0) (p 1) (p 2) (p 3) (p 4) (p 5))
  else if op = 0x2 ∨ op = 0x3 ∨ op = 0x4 then
    if w % 2 ^ 28 ≠ 0 then .error .eReserved
    else .ok (if op = 0x2 then .stop else if op = 0x3 then .isStarted else .isMoving)
  else if w / 2 ^ 19 % 2 ^ 9 ≠ 0 then .error .eReserved
  else if (op = 0x6 ∨ op = 0x8 ∨ op = 0x9 ∨ op = 0xB ∨ op = 0xC) ∧ w % 2 ^ 16 ≠ 0 then .error .eReserved
  else if w / 2 ^ 16 % 8 ≥ count then .error .eNum
  else .ok (if op = 0x5 then .setTarget num val
    else if op = 0x6 then .getTarget num
    else if op = 0x7 then .setSpeed num val
    else if op = 0x8 then .getSpeed num
    else if op = 0x9 then .getPosition num
    else if op = 0xA then .setTargetHr num val
    else if op = 0xB then .getTargetHr num
    else .getPositionHr num)

/-- R86: the word matches the command's row. -/
def Sys2Proof.Spec.Matches (w : CmdWord) (i : Instr) : Prop := w &&& i.tableRow.2 = i.tableRow.1

/-- The command is START.LIST. -/
def Sys2Proof.Spec.isStartList : Instr → Bool
  | .startList .. => true
  | _ => false

/-- The command is one of the two START forms. -/
def Sys2Proof.Spec.isStart : Instr → Bool
  | .startList .. => true
  | .startKeep => true
  | _ => false

/-- The command is SET_TARGET or SET_TARGET_HR of servo number `j`. -/
def Sys2Proof.Spec.isSetTarget (j : Nat) : Instr → Bool
  | .setTarget num _ => num.toNat == j
  | .setTargetHr num _ => num.toNat == j
  | _ => false

/-- The command is SET_SPEED of servo number `j`. -/
def Sys2Proof.Spec.isSetSpeed (j : Nat) : Instr → Bool
  | .setSpeed num _ => num.toNat == j
  | _ => false

/-- R132, R133: what setting the target of channel `i` to `tt` ticks leaves, and all that it leaves. -/
def Sys2Proof.Spec.TargetSet (s : State) (i : Fin 6) (tt : Nat) (t : State) : Prop :=
  (t.chan i).target.toNat = tt ∧
    ((s.chan i).speed = 0 ∨ (s.chan i).position = 0 ∨ tt = 0 → (t.chan i).position.toNat = tt) ∧
    (¬((s.chan i).speed = 0 ∨ (s.chan i).position = 0 ∨ tt = 0) → (t.chan i).position = (s.chan i).position) ∧
    (t.chan i).pin = (s.chan i).pin ∧ (t.chan i).speed = (s.chan i).speed ∧
    (∀ j : Fin 6, j ≠ i → t.chan j = s.chan j) ∧
    (t.moving = true ↔ s.moving = true ∨ (t.chan i).position ≠ (t.chan i).target) ∧
    t = { s with table := t.table, moving := t.moving, rsp := some ⟨none, 0⟩ }

/-- R155: `position` after one Interpolate pass: toward `target` by at most `speed` ticks, not past it; a channel
with `speed = 0` is not moved. -/
def Sys2Proof.Spec.afterPass (c : Channel) : Nat :=
  if c.speed.toNat = 0 then c.position.toNat
  else if c.position.toNat ≤ c.target.toNat then min (c.position.toNat + c.speed.toNat) c.target.toNat
  else max (c.position.toNat - c.speed.toNat) c.target.toNat

/-- R154: some configured channel has `position ≠ target`. -/
def Sys2Proof.Spec.SomeDiffers (s : State) : Prop :=
  ∃ i : Fin 6, i.val < s.count.toNat ∧ (s.chan i).position ≠ (s.chan i).target

/-- The step is not a reset: the host's next input is no edge with `rst = 1`. -/
def Sys2Proof.Spec.NoReset (s : State) : Prop := ∀ v w rest, s.hostInputs ≠ .edge true v w :: rest

/-- The step is a clock edge: the host's next input is no bare command step (a silent host gives idle edges). -/
def Sys2Proof.Spec.IsEdge (s : State) : Prop := ∀ w rest, s.hostInputs ≠ .command w :: rest

/-! ## Encoding -/

/-- R81 to R87: decoding the word of a command gives that command back, with every operand field at every value. -/
def Obligations.EncodeThenDecodeIsIdentity : Prop := ∀ i : Instr, decode (encode i) = .ok i

/-- R90, R91: every word that decodes is exactly the word of what it decodes to; no bit is ignored. -/
def Obligations.DecodedWordIsItsEncoding : Prop := ∀ (w : CmdWord) (i : Instr), decode w = .ok i → encode i = w

/-- R86: a word decodes to a command of the row it matches; a word that matches no row is refused, with `E_OPCODE` when
`op` is 0x0, 0xD, 0xE or 0xF, else `E_RESERVED`. -/
def Obligations.OpcodeTableSelectsTheCommand : Prop :=
  (∀ (w : CmdWord) (i : Instr), Spec.Matches w i → ∃ j, decode w = .ok j ∧ j.tableRow = i.tableRow) ∧
  (∀ (w : CmdWord) (i : Instr), decode w = .ok i → Spec.Matches w i) ∧
  ∀ w : CmdWord, (∀ i, ¬Spec.Matches w i) →
    decode w = .error (if w.toNat / 2 ^ 28 = 0x0 ∨ w.toNat / 2 ^ 28 = 0xD ∨ w.toNat / 2 ^ 28 = 0xE ∨
      w.toNat / 2 ^ 28 = 0xF then .eOpcode else .eReserved)

/-- 30_encoding.md R93 and 95_test_vectors.md 2.1: words written out there decode to the commands they stand for. -/
def Obligations.WrittenWordsDecode : Prop :=
  decode 0x1010010B = .ok (.startList 4 3 1 4 0 0 0) ∧ decode 0x10200000 = .ok .startKeep ∧
  decode 0x20000000 = .ok .stop ∧ decode 0x500109C4 = .ok (.setTarget 1 2500) ∧
  decode 0x700000C8 = .ok (.setSpeed 0 200) ∧ decode 0x90010000 = .ok (.getPosition 1) ∧
  decode 0xA0028CA0 = .ok (.setTargetHr 2 36000) ∧ decode 0xC0050000 = .ok (.getPositionHr 5)

/-- R92, R183: on every word the block does what the decoding procedure says: it refuses with the first code that fires,
or runs the command, which is well formed and raises nothing. -/
def Obligations.CommandStepFollowsDecodingProcedure : Prop :=
  ∀ (s : State) (w : CmdWord), s.stopPending = false → s.count.toNat ≤ 6 →
    (∀ v, Spec.decodeProcedure w.toNat s.count.toNat = .error v → s.commandStep w = .next (Spec.refused s v)) ∧
    (∀ i, Spec.decodeProcedure w.toNat s.count.toNat = .ok i →
      decode w = .ok i ∧ WellFormed i ∧ s.commandStep w = exec i s ∧ ∃ t, exec i s = .next t ∧ t.viol = s.viol)

/-- R110, R130, R183: a command whose fields are illegal whatever the state is refused in every state. -/
def Obligations.IllFormedCommandsAreRefused : Prop :=
  ∀ (i : Instr) (s : State), ¬WellFormed i →
    ∃ v, (v = .eCount ∨ v = .eReserved ∨ v = .ePin ∨ v = .eDup ∨ v = .eNum) ∧ exec i s = .next (Spec.refused s v)

/-! ## The step -/

/-- R62, R64, and the model's own choices in logs 2 and 4: when the host's next input is a bare command step whose word
decodes to `i`, and the port is ready, the step is `exec i` of the state with that input taken and the port's last response
gone. R64 admits the command step; that it is a step on one listed input is the model's choice (log 2), and so is that it
counts as a clock period of its own, after which the last response is gone (log 4): R20 speaks only of clock edges. -/
def Obligations.StepRunsTheDecodedCommand : Prop :=
  ∀ (s : State) (w : CmdWord) (rest : List HostInput) (i : Instr),
    s.hostInputs = .command w :: rest → s.stopPending = false → decode w = .ok i →
    step s = exec i { s with hostInputs := rest, rsp := none }

/-- R63: one clock edge. Reset over everything; else the accepted command, then the tick step on its result; at most one
response. -/
def Obligations.EdgeRunsResetOrCommandThenTick : Prop :=
  ∀ (s : State) (rst v : Bool) (w : CmdWord) (rest : List HostInput), s.hostInputs = .edge rst v w :: rest →
    let s0 : State := { s with hostInputs := rest, rsp := none }
    (rst = true → step s = .next { State.reset with hostInputs := rest }) ∧
    (rst = false → v = true → s.stopPending = false → ∀ i, decode w = .ok i →
      ∃ t, exec i s0 = .next t ∧ step s = .next t.tick ∧
        (t.rsp.isSome → t.stopPending = false ∧ t.tick.rsp = t.rsp)) ∧
    (rst = false → v = true → s.stopPending = false → ∀ c, decode w = .error c →
      step s = .next (Spec.refused s0 c).tick ∧ (Spec.refused s0 c).tick.rsp = some ⟨some c, 0⟩) ∧
    (rst = false → (v = false ∨ s.stopPending = true) → step s = .next s0.tick)

/-- R220, R29, U14: while a STOP is pending the port accepts nothing: an edge with a command presented is an idle edge.
The second clause is the model's own choice (log 5), for R64 and U14 say that no bare command step exists while a STOP is
pending: such an input changes nothing but the host's inputs and the port's last response. -/
def Obligations.PendingStopBlocksThePort : Prop :=
  ∀ (s : State) (v : Bool) (w : CmdWord) (rest : List HostInput), s.stopPending = true →
    (s.hostInputs = .edge false v w :: rest →
      step s = step { s with hostInputs := .edge false false 0 :: rest }) ∧
    (s.hostInputs = .command w :: rest → step s = .next { s with hostInputs := rest, rsp := none })

/-- R167, R185: no step of the machine stops, and the tick step raises no violation and never sets `viol`. -/
def Obligations.NothingStopsTheMachine : Prop :=
  (∀ s : State, ∃ t, step s = .next t) ∧
  ∀ s : State, s.tick.viol = s.viol ∧ (s.tick.rsp = s.rsp ∨ s.tick.rsp = some ⟨none, 0⟩)

/-- R210, R211: an edge with `rst = 1` gives every piece of state its reset value, whatever command is presented, and no
response. -/
def Obligations.ResetEdgeZeroesTheBlock : Prop :=
  ∀ (s : State) (v : Bool) (w : CmdWord) (rest : List HostInput), s.hostInputs = .edge true v w :: rest →
    ∃ t, step s = .next t ∧ (∀ i : Fin 6, t.chan i = ⟨0, 0, 0, 0⟩) ∧ t.count = 0 ∧ t.started = false ∧
      t.moving = false ∧ t.stopPending = false ∧ t.viol = false ∧ t.cnt = 0 ∧ t.wrap = 0 ∧ t.fq = [] ∧
      t.pinOut = 0 ∧ t.pinOe = 0 ∧ t.rsp = none ∧ t.cmdReady = true ∧ t.hostInputs = rest

/-- R30: over a step with no reset, `viol` becomes 1 exactly when the step's response carries a violation, and stays 1;
a reset edge clears it. -/
def Obligations.ViolationFlagIsSticky : Prop :=
  ∀ s t : State, step s = .next t →
    (Spec.NoReset s → (t.viol = true ↔ s.viol = true ∨ ∃ c, t.rsp = some ⟨some c, 0⟩)) ∧
    (¬Spec.NoReset s → t.viol = false)

/-- R20, R88, R182, R35: the output ports of a refused and of an answered command, with the error codes' numbers, the
ready port, and the compare unit's view of the queue. -/
def Obligations.OutputPortsShowTheState : Prop :=
  (∀ (s : State) (d : Half), (Spec.answered s d).rspValid = true ∧ (Spec.answered s d).rspErr = some 0 ∧
    (Spec.answered s d).rspData = some d) ∧
  (∀ (s : State) (v : Violation), (Spec.refused s v).rspValid = true ∧ (Spec.refused s v).rspData = some 0 ∧
    (Spec.refused s v).rspErr = some (match v with
      | .eOpcode => 1
      | .eReserved => 2
      | .eCount => 3
      | .ePin => 4
      | .eDup => 5
      | .eNum => 6)) ∧
  (∀ s : State, s.rspValid = false ↔ s.rsp = none) ∧
  (∀ s : State, s.cmdReady = true ↔ s.stopPending = false) ∧
  (∀ s : State, s.cmp = none ↔ s.fq = []) ∧
  ∀ (s : State) (e : FallEvent) (rest : List FallEvent), s.fq = e :: rest → s.cmp = some e.t

/-! ## Lifecycle and status commands -/

/-- R110: the checks of START.LIST, in their order; a refused START.LIST changes nothing but `viol`. -/
def Obligations.StartListRefusesBadLists : Prop :=
  ∀ (s : State) (n p0 p1 p2 p3 p4 p5 : Index),
    let p : Fin 6 → Index := ![p0, p1, p2, p3, p4, p5]
    let run := exec (.startList n p0 p1 p2 p3 p4 p5) s
    let countOk := 1 ≤ n.toNat ∧ n.toNat ≤ 6
    let unusedOk := ∀ j : Fin 6, n.toNat ≤ j.val → p j = 0
    let pinsOk := ∀ j : Fin 6, j.val < n.toNat → (p j).toNat ≤ 5
    let distinct := ∀ j k : Fin 6, j < k → k.val < n.toNat → p j ≠ p k
    (¬countOk → run = .next (Spec.refused s .eCount)) ∧
    (countOk → ¬unusedOk → run = .next (Spec.refused s .eReserved)) ∧
    (countOk → unusedOk → ¬pinsOk → run = .next (Spec.refused s .ePin)) ∧
    (countOk → unusedOk → pinsOk → ¬distinct → run = .next (Spec.refused s .eDup))

/-- R111, R113, R118: START.LIST with a valid list, whether or not the block is started. -/
def Obligations.StartListReplacesTheTable : Prop :=
  ∀ (s : State) (n p0 p1 p2 p3 p4 p5 : Index),
    let p : Fin 6 → Index := ![p0, p1, p2, p3, p4, p5]
    Spec.ListValid n p →
    ∃ t, exec (.startList n p0 p1 p2 p3 p4 p5) s = .next t ∧
      (∀ i : Fin 6, t.chan i = ⟨if i.val < n.toNat then p i else 0, 0, 0, 0⟩) ∧
      (∀ q : Fin 6, t.pinOe.getLsbD q.val = true ↔
        s.pinOe.getLsbD q.val = true ∨ ∃ j : Fin 6, j.val < n.toNat ∧ (p j).toNat = q.val) ∧
      (s.started = true → t.cnt = s.cnt ∧ t.wrap = s.wrap) ∧ (s.started = false → t.phase = 0) ∧
      t = { s with
        table := t.table, count := n, moving := false, pinOe := t.pinOe, started := true, cnt := t.cnt,
        wrap := t.wrap, rsp := some ⟨none, 0⟩ }

/-- R112, R113: START.KEEP enables the timer with `phase = 0` when stopped, changes nothing when started, and answers
`(0, 0)`. -/
def Obligations.StartKeepEnablesTheTimer : Prop :=
  ∀ s : State,
    (s.started = false →
      exec .startKeep s = .next (Spec.answered { s with started := true, cnt := 0, wrap := 0 } 0)) ∧
    (s.started = true → exec .startKeep s = .next (Spec.answered s 0))

/-- R114, R115: STOP of a stopped block only answers; with no pulse in flight it completes at once; with a pulse in flight
it waits and does not answer. -/
def Obligations.StopAnswersCompletesOrWaits : Prop :=
  ∀ s : State,
    (s.started = false → exec .stop s = .next (Spec.answered s 0)) ∧
    (s.started = true → s.fq = [] → ∃ t, exec .stop s = .next t ∧
      (∀ q : Fin 6, t.pinHigh q.val = true ↔
        s.pinHigh q.val = true ∧ ∀ i : Fin 6, i.val < s.count.toNat → (s.chan i).pin.toNat ≠ q.val) ∧
      t = { s with started := false, stopPending := false, pinOut := t.pinOut, rsp := some ⟨none, 0⟩ }) ∧
    (s.started = true → s.fq ≠ [] → exec .stop s = .next { s with stopPending := true })

/-- R116, R117: IS_STARTED and IS_MOVING answer their bit and write nothing. -/
def Obligations.StatusCommandsReportTheirBit : Prop :=
  ∀ s : State,
    exec .isStarted s = .next (Spec.answered s (if s.started = true then 0x0001 else 0x0000)) ∧
    exec .isMoving s = .next (Spec.answered s (if s.moving = true then 0x0001 else 0x0000))

/-- R117, R44: if IS_MOVING answers 0, every configured channel has `position = target`. -/
def Obligations.NotMovingMeansArrived : Prop :=
  ∀ s t : State, s.Inv → exec .isMoving s = .next t → t.rsp = some ⟨none, 0⟩ →
    ∀ i : Fin 6, i.val < s.count.toNat → (s.chan i).position = (s.chan i).target

/-- R88, R228: every command completes in its own step with one response, but a STOP that has to wait, which completes
nothing yet. -/
def Obligations.EveryCommandAnswersOrStopWaits : Prop :=
  ∀ (i : Instr) (s : State), ∃ t, exec i s = .next t ∧
    ((∃ r, t.rsp = some r ∧ (r.err ≠ none → r.data = 0)) ∨
      (i = .stop ∧ s.started = true ∧ s.fq ≠ [] ∧ t.stopPending = true ∧ t.rsp = s.rsp))

/-! ## Channel access commands -/

/-- R130: every channel command with a bad servo number is refused with `E_NUM`, reading and writing nothing but
`viol`. -/
def Obligations.BadServoNumberIsRefused : Prop :=
  ∀ (s : State) (num : Index) (val : Half), Spec.NumIllegal s num →
    exec (.setTarget num val) s = .next (Spec.refused s .eNum) ∧
    exec (.setTargetHr num val) s = .next (Spec.refused s .eNum) ∧
    exec (.setSpeed num val) s = .next (Spec.refused s .eNum) ∧
    exec (.getTarget num) s = .next (Spec.refused s .eNum) ∧
    exec (.getTargetHr num) s = .next (Spec.refused s .eNum) ∧
    exec (.getSpeed num) s = .next (Spec.refused s .eNum) ∧
    exec (.getPosition num) s = .next (Spec.refused s .eNum) ∧
    exec (.getPositionHr num) s = .next (Spec.refused s .eNum)

/-- R134, R131 to R133: SET_TARGET clamps to 2500 µs, converts × 24, and sets the target with its fast path; a bad servo
number is refused. -/
def Obligations.SetTargetWritesClampedMicroseconds : Prop :=
  ∀ (s : State) (num : Index) (val : Half),
    (∀ i : Fin 6, Spec.Names s num i →
      ∃ t, exec (.setTarget num val) s = .next t ∧ Spec.TargetSet s i (min val.toNat 2500 * 24) t) ∧
    (Spec.NumIllegal s num → exec (.setTarget num val) s = .next (Spec.refused s .eNum))

/-- R135, R131 to R133: SET_TARGET_HR clamps to 60000 ticks and sets the target with its fast path; GET_TARGET_HR then
answers it; a bad servo number is refused. -/
def Obligations.SetTargetHrWritesClampedTicks : Prop :=
  ∀ (s : State) (num : Index) (val : Half),
    (∀ i : Fin 6, Spec.Names s num i →
      ∃ t, exec (.setTargetHr num val) s = .next t ∧ Spec.TargetSet s i (min val.toNat 60000) t ∧
        exec (.getTargetHr num) t = .next (Spec.answered t (.ofNat 16 (min val.toNat 60000)))) ∧
    (Spec.NumIllegal s num → exec (.setTargetHr num val) s = .next (Spec.refused s .eNum))

/-- R138: SET_SPEED stores `val` in `speed` and changes nothing else of the block; a bad servo number is refused. -/
def Obligations.SetSpeedWritesOnlySpeed : Prop :=
  ∀ (s : State) (num : Index) (val : Half),
    (∀ i : Fin 6, Spec.Names s num i →
      ∃ t, exec (.setSpeed num val) s = .next t ∧ t.chan i = { s.chan i with speed := val } ∧
        (∀ j : Fin 6, j ≠ i → t.chan j = s.chan j) ∧ t = { s with table := t.table, rsp := some ⟨none, 0⟩ }) ∧
    (Spec.NumIllegal s num → exec (.setSpeed num val) s = .next (Spec.refused s .eNum))

/-- R136, R137, R139, R140, R141: the get commands answer their field, in µs rounded down or in ticks, and write
nothing; a bad servo number is refused. -/
def Obligations.GetCommandsAnswerTheirField : Prop :=
  ∀ (s : State) (num : Index),
    (∀ i : Fin 6, Spec.Names s num i →
      exec (.getTarget num) s = .next (Spec.answered s (.ofNat 16 ((s.chan i).target.toNat / 24))) ∧
      exec (.getTargetHr num) s = .next (Spec.answered s (s.chan i).target) ∧
      exec (.getSpeed num) s = .next (Spec.answered s (s.chan i).speed) ∧
      exec (.getPosition num) s = .next (Spec.answered s (.ofNat 16 ((s.chan i).position.toNat / 24))) ∧
      exec (.getPositionHr num) s = .next (Spec.answered s (s.chan i).position) ∧
      (s.Inv → (s.chan i).target.toNat ≤ 60000 ∧ (s.chan i).position.toNat ≤ 60000)) ∧
    (Spec.NumIllegal s num →
      exec (.getTarget num) s = .next (Spec.refused s .eNum) ∧
      exec (.getTargetHr num) s = .next (Spec.refused s .eNum) ∧
      exec (.getSpeed num) s = .next (Spec.refused s .eNum) ∧
      exec (.getPosition num) s = .next (Spec.refused s .eNum) ∧
      exec (.getPositionHr num) s = .next (Spec.refused s .eNum))

/-- R135 (DDM §8): `SET_TARGET_HR num, t`, any number of ticks, `GET_TARGET_HR num` answers `t` for `t ≤ 60000` and 60000
above. -/
def Obligations.TargetRoundTripsThroughTicks : Prop :=
  ∀ (s u : State) (num : Index) (val : Half) (i : Fin 6) (k : Nat), Spec.Names s num i →
    exec (.setTargetHr num val) s = .next u →
    ∃ t, exec (.getTargetHr num) (State.tick^[k] u) = .next t ∧
      t.rsp = some ⟨none, if val.toNat ≤ 60000 then val else 60000⟩

/-- R66, R28: which commands write which state; no command writes `fq` or raises a pin. -/
def Obligations.CommandsWriteOnlyTheirState : Prop :=
  ∀ (i : Instr) (s t : State), exec i s = .next t →
    t.fq = s.fq ∧ t.hostInputs = s.hostInputs ∧
    (t.count ≠ s.count ∨ t.pinOe ≠ s.pinOe ∨ (∃ j, (t.chan j).pin ≠ (s.chan j).pin) → Spec.isStartList i = true) ∧
    (∀ j : Fin 6, (t.chan j).target ≠ (s.chan j).target →
      Spec.isStartList i = true ∨ Spec.isSetTarget j.val i = true) ∧
    (∀ j : Fin 6, (t.chan j).position ≠ (s.chan j).position →
      Spec.isStartList i = true ∨ (Spec.isSetTarget j.val i = true ∧
        ((s.chan j).speed = 0 ∨ (s.chan j).position = 0 ∨ (t.chan j).target = 0))) ∧
    (∀ j : Fin 6, (t.chan j).speed ≠ (s.chan j).speed →
      Spec.isStartList i = true ∨ Spec.isSetSpeed j.val i = true) ∧
    (t.moving ≠ s.moving → (Spec.isStartList i = true ∧ t.moving = false) ∨
      (t.moving = true ∧ ∃ j : Fin 6, Spec.isSetTarget j.val i = true)) ∧
    (t.started ≠ s.started → (Spec.isStart i = true ∧ t.started = true) ∨ (i = .stop ∧ t.started = false)) ∧
    (t.stopPending ≠ s.stopPending → i = .stop) ∧
    (t.cnt ≠ s.cnt ∨ t.wrap ≠ s.wrap → Spec.isStart i = true ∧ s.started = false ∧ t.phase = 0) ∧
    (∀ q : Fin 6, t.pinHigh q.val ≠ s.pinHigh q.val → i = .stop ∧ t.pinHigh q.val = false) ∧
    (t.viol ≠ s.viol → t.viol = true ∧ ∃ v, t = Spec.refused s v)

/-! ## The scheduler -/

/-- R151: while `started = 0` the tick step changes nothing. -/
def Obligations.StoppedTickChangesNothing : Prop := ∀ s : State, s.started = false → s.tick = s

/-- R150: a tick step does its parts in the order of the rule: nothing when stopped; else PeriodStart work when
`phase = 0` and no STOP is pending, fall service at this phase, then the end of a drain or the advance of the timeline. -/
def Obligations.TickRunsItsPartsInOrder : Prop :=
  ∀ s : State,
    let s1 := if s.phase = 0 ∧ s.stopPending = false then s.interpolate.emitEdges else s
    let s2 := s1.serviceFalls s.phase
    s.tick = if s.started = false then s
      else if s2.stopPending = true ∧ s2.fq = [] then s2.completeStop else s2.advanceTimeline

/-- R154, R155: one Interpolate pass: every configured channel's new `position`, `moving` from the comparison before the
pass, nothing else. -/
def Obligations.InterpolateMovesTowardTargets : Prop :=
  ∀ s : State,
    (∀ i : Fin 6, i.val < s.count.toNat →
      (s.interpolate.chan i).position.toNat = Spec.afterPass (s.chan i) ∧
      s.interpolate.chan i = { s.chan i with position := (s.interpolate.chan i).position }) ∧
    (∀ i : Fin 6, s.count.toNat ≤ i.val → s.interpolate.chan i = s.chan i) ∧
    (s.interpolate.moving = true ↔ Spec.SomeDiffers s) ∧
    s.interpolate = { s with table := s.interpolate.table, moving := s.interpolate.moving }

/-- R164: after `k` passes the distance to the target is `max(d0 − k × S, 0)`, on the same side: the channel arrives
exactly when `k × S ≥ d0`, never passes the target, and stays. -/
def Obligations.RampConvergesWithoutOvershoot : Prop :=
  ∀ (s : State) (i : Fin 6) (k : Nat), i.val < s.count.toNat → 0 < (s.chan i).speed.toNat →
    let p := (s.chan i).position.toNat
    let g := (s.chan i).target.toNat
    let q := ((State.interpolate^[k] s).chan i).position.toNat
    (p ≤ g → q = min (p + k * (s.chan i).speed.toNat) g) ∧
    (g ≤ p → q = max (p - k * (s.chan i).speed.toNat) g) ∧
    (q = g ↔ (p - g) + (g - p) ≤ k * (s.chan i).speed.toNat)

/-- R218, R154: a configured channel with `speed = 0` that differs from its target stays where it is on every pass and
keeps `moving` at 1. -/
def Obligations.FrozenChannelKeepsMoving : Prop :=
  ∀ (s : State) (i : Fin 6) (k : Nat), i.val < s.count.toNat → (s.chan i).speed = 0 →
    (s.chan i).position ≠ (s.chan i).target →
    (State.interpolate^[k] s).chan i = s.chan i ∧ (State.interpolate^[k + 1] s).moving = true

/-- R165: the pass on which the last differing channel arrives leaves `moving` at 1 and the next one clears it; a
set-target that removes the last difference leaves `moving` as it was until the next pass clears it. -/
def Obligations.MovingClearsOnePassAfterArrival : Prop :=
  (∀ s : State, Spec.SomeDiffers s → ¬Spec.SomeDiffers s.interpolate →
    s.interpolate.moving = true ∧ s.interpolate.interpolate.moving = false) ∧
  ∀ (s t : State) (num : Index) (val : Half),
    exec (.setTarget num val) s = .next t ∨ exec (.setTargetHr num val) s = .next t → ¬Spec.SomeDiffers t →
    t.moving = s.moving ∧ t.interpolate.moving = false

/-- R156: EmitEdges raises the pin of every configured channel with `position > 0`, and loads `fq` with their falls by
ascending time, ties in ascending servo number. -/
def Obligations.EmitEdgesLoadsTheFallQueue : Prop :=
  ∀ s : State,
    (∃ order : List (Fin 6), order.Nodup ∧
      (∀ i, i ∈ order ↔ i.val < s.count.toNat ∧ 0 < (s.chan i).position.toNat) ∧
      order.Pairwise (fun a b => (s.chan a).position.toNat < (s.chan b).position.toNat ∨
        ((s.chan a).position = (s.chan b).position ∧ a < b)) ∧
      s.emitEdges.fq = order.map fun i => ⟨(s.chan i).position, (s.chan i).pin⟩) ∧
    (∀ q : Fin 6, s.emitEdges.pinHigh q.val = true ↔ s.pinHigh q.val = true ∨
      ∃ i : Fin 6, i.val < s.count.toNat ∧ 0 < (s.chan i).position.toNat ∧ (s.chan i).pin.toNat = q.val) ∧
    s.emitEdges = { s with fq := s.emitEdges.fq, pinOut := s.emitEdges.pinOut }

/-- R158: fall service removes the leading entries whose time is `p` and lowers exactly their pins. -/
def Obligations.FallServiceLowersDuePins : Prop :=
  ∀ (s : State) (p : Nat), ∃ due : List FallEvent,
    s.fq = due ++ (s.serviceFalls p).fq ∧ (∀ e ∈ due, e.t.toNat = p) ∧
    (∀ e, (s.serviceFalls p).fq.head? = some e → e.t.toNat ≠ p) ∧
    (∀ q : Fin 6, (s.serviceFalls p).pinHigh q.val = true ↔
      s.pinHigh q.val = true ∧ ∀ e ∈ due, e.pin.toNat ≠ q.val) ∧
    s.serviceFalls p = { s with fq := (s.serviceFalls p).fq, pinOut := (s.serviceFalls p).pinOut }

/-- R160: the timeline advances by one tick modulo 458752, and nothing else changes. -/
def Obligations.TimelineAdvancesModuloPeriod : Prop :=
  ∀ s : State, s.wrap.toNat ≤ 6 →
    s.advanceTimeline.phase = (s.phase + 1) % 458752 ∧ s.advanceTimeline.wrap.toNat ≤ 6 ∧
    s.advanceTimeline = { s with cnt := s.advanceTimeline.cnt, wrap := s.advanceTimeline.wrap }

/-- R161: with `fq` empty and `phase ≠ 0` only `cnt` and `wrap` change, by one tick when the block is started. No STOP is
pending then, which is the invariant R43. -/
def Obligations.IdleTickMovesOnlyTheTimeline : Prop :=
  ∀ s : State, s.stopPending = false → s.fq = [] → s.phase ≠ 0 → s.wrap.toNat ≤ 6 →
    s.tick = { s with cnt := s.tick.cnt, wrap := s.tick.wrap } ∧
    s.tick.phase = if s.started = true then (s.phase + 1) % 458752 else s.phase

/-- R159, R115: the tick that services the last fall of a pending STOP completes it: the block is stopped, the due and the
configured pins are low, the response is `(0, 0)`, and the timeline is not advanced. -/
def Obligations.LastFallCompletesPendingStop : Prop :=
  ∀ s : State, s.started = true → s.stopPending = true → (∀ e ∈ s.fq, e.t.toNat = s.phase) →
    (∀ q : Fin 6, s.tick.pinHigh q.val = true ↔ s.pinHigh q.val = true ∧ (∀ e ∈ s.fq, e.pin.toNat ≠ q.val) ∧
      ∀ i : Fin 6, i.val < s.count.toNat → (s.chan i).pin.toNat ≠ q.val) ∧
    s.tick = { s with
      started := false, stopPending := false, fq := [], pinOut := s.tick.pinOut, rsp := some ⟨none, 0⟩ }

/-- R66, R150, R167: what the tick step never writes, and when it writes the rest: `position`, `moving` and rising pins;
`started`, `stop_pending` and the response; `cnt` and `wrap`; `fq`; falling pins. -/
def Obligations.TickWritesOnlyItsState : Prop :=
  ∀ s : State,
    s.tick.count = s.count ∧ s.tick.pinOe = s.pinOe ∧ s.tick.viol = s.viol ∧ s.tick.hostInputs = s.hostInputs ∧
    (∀ j : Fin 6, (s.tick.chan j).pin = (s.chan j).pin ∧ (s.tick.chan j).target = (s.chan j).target ∧
      (s.tick.chan j).speed = (s.chan j).speed) ∧
    ((∃ j : Fin 6, (s.tick.chan j).position ≠ (s.chan j).position) ∨ s.tick.moving ≠ s.moving ∨
      (∃ q : Fin 6, s.pinHigh q.val = false ∧ s.tick.pinHigh q.val = true) →
      s.started = true ∧ s.phase = 0 ∧ s.stopPending = false) ∧
    (s.tick.started ≠ s.started ∨ s.tick.stopPending ≠ s.stopPending ∨ s.tick.rsp ≠ s.rsp →
      s.stopPending = true ∧ s.tick.started = false ∧ s.tick.stopPending = false ∧ s.tick.fq = [] ∧
      s.tick.rsp = some ⟨none, 0⟩) ∧
    (s.tick.started = false → s.tick.cnt = s.cnt ∧ s.tick.wrap = s.wrap) ∧
    (s.tick.started = true → s.wrap.toNat ≤ 6 → s.tick.phase = (s.phase + 1) % 458752 ∧ s.tick.wrap.toNat ≤ 6) ∧
    (s.started = false → s.tick.fq = s.fq) ∧
    (s.started = true → s.phase = 0 → s.stopPending = false → s.tick.fq = s.interpolate.emitEdges.fq) ∧
    (s.started = true → s.phase ≠ 0 ∨ s.stopPending = true → ∃ due, s.fq = due ++ s.tick.fq ∧
      (∀ e ∈ due, e.t.toNat = s.phase) ∧ ∀ e, s.tick.fq.head? = some e → e.t.toNat ≠ s.phase) ∧
    ∀ q : Fin 6, s.pinHigh q.val = true → s.tick.pinHigh q.val = false →
      s.started = true ∧ (s.phase ≠ 0 ∨ s.stopPending = true) ∧
        ((∃ e ∈ s.fq, e.t.toNat = s.phase ∧ e.pin.toNat = q.val) ∨
          (s.stopPending = true ∧ s.tick.started = false ∧
            ∃ i : Fin 6, i.val < s.count.toNat ∧ (s.chan i).pin.toNat = q.val))

/-! ## Invariants and headline results -/

/-- R38 to R46, R211: the invariants hold of the reset state. -/
def Obligations.ResetEstablishesTheInvariants : Prop := State.reset.Inv

/-- R38 to R46: every step of the machine, whatever the host does in it, keeps the invariants. -/
def Obligations.EveryStepKeepsTheInvariants : Prop := ∀ s t : State, s.Inv → step s = .next t → t.Inv

/-- R157, R41: over any step but a reset, a pulse in flight either goes on, its fall unchanged and its pin high, or this is
the clock edge of its latched time and its pin falls. -/
def Obligations.PulseInFlightFallsOnlyAtItsTime : Prop :=
  ∀ (s t : State) (e : FallEvent), s.Inv → Spec.NoReset s →
    step s = .next t → e ∈ s.fq →
    (e ∈ t.fq ∧ t.pinHigh e.pin.toNat = true ∧ (Spec.IsEdge s → s.phase ≠ e.t.toNat)) ∨
    (Spec.IsEdge s ∧ s.phase = e.t.toNat ∧ e ∉ t.fq ∧ t.pinHigh e.pin.toNat = false)

/-- R156, R157, R118, R161: a pin rises only in the tick of a PeriodStart, on the pin of a channel with a non-zero width. -/
def Obligations.PinsRiseOnlyAtPeriodStart : Prop :=
  ∀ (s t : State) (q : Fin 6), s.Inv → step s = .next t → s.pinHigh q.val = false → t.pinHigh q.val = true →
    (s.started = false ∨ s.phase = 0) ∧ t.started = true ∧ t.phase = 1 ∧
    ∃ i : Fin 6, i.val < t.count.toNat ∧ (t.chan i).pin.toNat = q.val ∧ 0 < (t.chan i).position.toNat

/-- R157 (glitch freedom), R227: whatever commands the host presents on the edges, a pulse in flight stays high until the
edge of its latched time and falls on it. -/
def Obligations.PulseInFlightIsWholeUnderAnyCommands : Prop :=
  ∀ (s : State) (e : FallEvent), s.Inv → s.PlainEdges → e ∈ s.fq →
    (∀ j ≤ e.t.toNat - s.phase, ∃ u, runs j s = .next u ∧ u.pinHigh e.pin.toNat = true) ∧
    ∃ u, runs (e.t.toNat - s.phase + 1) s = .next u ∧ u.pinHigh e.pin.toNat = false

/-- R163, R227: counted from a PeriodStart edge as edge 0, with a silent host, a channel whose position is `P` after that
edge's pass has its pin high after edges 0 to P − 1 and low after the rest of the period. -/
def Obligations.PulseIsExactlyPositionTicksWide : Prop :=
  ∀ (s : State) (i : Fin 6) (k : Nat), s.Inv → s.started = true → s.phase = 0 → s.hostInputs = [] →
    i.val < s.count.toNat → k < 458752 →
    ∃ u, runs (k + 1) s = .next u ∧
      u.pinHigh (s.chan i).pin.toNat = decide (k < Spec.afterPass (s.chan i))

/-- R166: one whole period with a silent host, from PeriodStart to PeriodStart, each configured pin high for exactly its
new position ticks. -/
def Obligations.OnePeriodInterpolatesOnce : Prop :=
  ∀ s : State, s.Inv → s.started = true → s.phase = 0 → s.hostInputs = [] →
    ∃ u, runs 458752 s = .next u ∧
      (∀ i : Fin 6, (u.chan i).position.toNat = Spec.afterPass (s.chan i) ∧
        u.chan i = { s.chan i with position := (u.chan i).position }) ∧
      (u.moving = true ↔ Spec.SomeDiffers s) ∧ u.fq = [] ∧ u.pinOut = 0 ∧ u.phase = 0 ∧
      u = { s with table := u.table, moving := u.moving, rsp := none } ∧
      ∀ k < 458752, ∃ v, runs (k + 1) s = .next v ∧ ∀ i : Fin 6, i.val < s.count.toNat →
        v.pinHigh (s.chan i).pin.toNat = decide (k < (u.chan i).position.toNat)

/-- R114, R115, R159: a STOP accepted with pulses in flight completes on the edge `T − p` edges after the accepting edge,
at most 59999, whatever the host presents meanwhile; before that it is pending with no response. -/
def Obligations.StopCompletesWhenTheLastPulseEnds : Prop :=
  ∀ (s : State) (rest : List HostInput) (e : FallEvent), s.Inv → s.PlainEdges → s.stopPending = false →
    s.hostInputs = .edge false true 0x20000000 :: rest → s.fq.getLast? = some e →
    let k := e.t.toNat - s.phase
    k ≤ 59999 ∧
    (∀ j < k, ∃ u, runs (j + 1) s = .next u ∧ u.started = true ∧ u.stopPending = true ∧ u.rsp = none) ∧
    ∃ u, runs (k + 1) s = .next u ∧ u.started = false ∧ u.stopPending = false ∧ u.fq = [] ∧ u.pinOut = 0 ∧
      u.rsp = some ⟨none, 0⟩ ∧ u.table = s.table ∧ u.count = s.count ∧ u.moving = s.moving ∧ u.pinOe = s.pinOe

/-- R119, R113, R231: START.KEEP of a stopped block starts a period on its own edge: one pass over the kept table, the pins
of the channels with a width rise, nothing else of the table changes. -/
def Obligations.ResumeStartsAPeriodAtOnce : Prop :=
  ∀ (s : State) (rest : List HostInput), s.Inv → s.started = false →
    s.hostInputs = .edge false true 0x10200000 :: rest →
    ∃ u, step s = .next u ∧ u.started = true ∧ u.phase = 1 ∧ u.rsp = some ⟨none, 0⟩ ∧ u.count = s.count ∧
      (∀ i : Fin 6, (u.chan i).position.toNat = Spec.afterPass (s.chan i) ∧
        u.chan i = { s.chan i with position := (u.chan i).position }) ∧
      (∀ q : Fin 6, u.pinHigh q.val = true ↔
        ∃ i : Fin 6, i.val < s.count.toNat ∧ (s.chan i).pin.toNat = q.val ∧ 0 < Spec.afterPass (s.chan i))
end

