-- ==== Sys2Proof/Laws/State.lean ====
section
/-! SUPPORT. One lemma per field per update of State, so that no proof unfolds a record update. -/

namespace Sys2Proof.Machine

/-! ### `respond` -/

@[simp] theorem State.respond_table (s : State) (d : Half) : (s.respond d).table = s.table := rfl
@[simp] theorem State.respond_count (s : State) (d : Half) : (s.respond d).count = s.count := rfl
@[simp] theorem State.respond_started (s : State) (d : Half) : (s.respond d).started = s.started := rfl
@[simp] theorem State.respond_moving (s : State) (d : Half) : (s.respond d).moving = s.moving := rfl
@[simp] theorem State.respond_stopPending (s : State) (d : Half) : (s.respond d).stopPending = s.stopPending := rfl
@[simp] theorem State.respond_viol (s : State) (d : Half) : (s.respond d).viol = s.viol := rfl
@[simp] theorem State.respond_cnt (s : State) (d : Half) : (s.respond d).cnt = s.cnt := rfl
@[simp] theorem State.respond_wrap (s : State) (d : Half) : (s.respond d).wrap = s.wrap := rfl
@[simp] theorem State.respond_fq (s : State) (d : Half) : (s.respond d).fq = s.fq := rfl
@[simp] theorem State.respond_pinOut (s : State) (d : Half) : (s.respond d).pinOut = s.pinOut := rfl
@[simp] theorem State.respond_pinOe (s : State) (d : Half) : (s.respond d).pinOe = s.pinOe := rfl
@[simp] theorem State.respond_rsp (s : State) (d : Half) : (s.respond d).rsp = some ⟨none, d⟩ := rfl
@[simp] theorem State.respond_hostInputs (s : State) (d : Half) : (s.respond d).hostInputs = s.hostInputs := rfl
@[simp] theorem State.respond_chan (s : State) (d : Half) (j : Fin 6) : (s.respond d).chan j = s.chan j := rfl
@[simp] theorem State.respond_phase (s : State) (d : Half) : (s.respond d).phase = s.phase := rfl

/-! ### `raiseViolation` -/

@[simp] theorem State.raiseViolation_table (s : State) (v : Violation) : (s.raiseViolation v).table = s.table := rfl
@[simp] theorem State.raiseViolation_count (s : State) (v : Violation) : (s.raiseViolation v).count = s.count := rfl
@[simp] theorem State.raiseViolation_started (s : State) (v : Violation) : (s.raiseViolation v).started = s.started := rfl
@[simp] theorem State.raiseViolation_moving (s : State) (v : Violation) : (s.raiseViolation v).moving = s.moving := rfl
@[simp] theorem State.raiseViolation_stopPending (s : State) (v : Violation) : (s.raiseViolation v).stopPending = s.stopPending := rfl
@[simp] theorem State.raiseViolation_viol (s : State) (v : Violation) : (s.raiseViolation v).viol = true := rfl
@[simp] theorem State.raiseViolation_cnt (s : State) (v : Violation) : (s.raiseViolation v).cnt = s.cnt := rfl
@[simp] theorem State.raiseViolation_wrap (s : State) (v : Violation) : (s.raiseViolation v).wrap = s.wrap := rfl
@[simp] theorem State.raiseViolation_fq (s : State) (v : Violation) : (s.raiseViolation v).fq = s.fq := rfl
@[simp] theorem State.raiseViolation_pinOut (s : State) (v : Violation) : (s.raiseViolation v).pinOut = s.pinOut := rfl
@[simp] theorem State.raiseViolation_pinOe (s : State) (v : Violation) : (s.raiseViolation v).pinOe = s.pinOe := rfl
@[simp] theorem State.raiseViolation_rsp (s : State) (v : Violation) : (s.raiseViolation v).rsp = some ⟨some v, 0⟩ := rfl
@[simp] theorem State.raiseViolation_hostInputs (s : State) (v : Violation) : (s.raiseViolation v).hostInputs = s.hostInputs := rfl
@[simp] theorem State.raiseViolation_chan (s : State) (v : Violation) (j : Fin 6) : (s.raiseViolation v).chan j = s.chan j := rfl
@[simp] theorem State.raiseViolation_phase (s : State) (v : Violation) : (s.raiseViolation v).phase = s.phase := rfl

/-! ### `setChan` -/

@[simp] theorem State.setChan_table (s : State) (i : Fin 6) (c : Channel) : (s.setChan i c).table = s.table.set i c := rfl
@[simp] theorem State.setChan_count (s : State) (i : Fin 6) (c : Channel) : (s.setChan i c).count = s.count := rfl
@[simp] theorem State.setChan_started (s : State) (i : Fin 6) (c : Channel) : (s.setChan i c).started = s.started := rfl
@[simp] theorem State.setChan_moving (s : State) (i : Fin 6) (c : Channel) : (s.setChan i c).moving = s.moving := rfl
@[simp] theorem State.setChan_stopPending (s : State) (i : Fin 6) (c : Channel) : (s.setChan i c).stopPending = s.stopPending := rfl
@[simp] theorem State.setChan_viol (s : State) (i : Fin 6) (c : Channel) : (s.setChan i c).viol = s.viol := rfl
@[simp] theorem State.setChan_cnt (s : State) (i : Fin 6) (c : Channel) : (s.setChan i c).cnt = s.cnt := rfl
@[simp] theorem State.setChan_wrap (s : State) (i : Fin 6) (c : Channel) : (s.setChan i c).wrap = s.wrap := rfl
@[simp] theorem State.setChan_fq (s : State) (i : Fin 6) (c : Channel) : (s.setChan i c).fq = s.fq := rfl
@[simp] theorem State.setChan_pinOut (s : State) (i : Fin 6) (c : Channel) : (s.setChan i c).pinOut = s.pinOut := rfl
@[simp] theorem State.setChan_pinOe (s : State) (i : Fin 6) (c : Channel) : (s.setChan i c).pinOe = s.pinOe := rfl
@[simp] theorem State.setChan_rsp (s : State) (i : Fin 6) (c : Channel) : (s.setChan i c).rsp = s.rsp := rfl
@[simp] theorem State.setChan_hostInputs (s : State) (i : Fin 6) (c : Channel) : (s.setChan i c).hostInputs = s.hostInputs := rfl
@[simp] theorem State.setChan_phase (s : State) (i : Fin 6) (c : Channel) : (s.setChan i c).phase = s.phase := rfl

/-! ### `noteDifference` -/

@[simp] theorem State.noteDifference_table (s : State) (i : Fin 6) : (s.noteDifference i).table = s.table := rfl
@[simp] theorem State.noteDifference_count (s : State) (i : Fin 6) : (s.noteDifference i).count = s.count := rfl
@[simp] theorem State.noteDifference_started (s : State) (i : Fin 6) : (s.noteDifference i).started = s.started := rfl
@[simp] theorem State.noteDifference_moving (s : State) (i : Fin 6) : (s.noteDifference i).moving = (s.moving || (s.chan i).differs) := rfl
@[simp] theorem State.noteDifference_stopPending (s : State) (i : Fin 6) : (s.noteDifference i).stopPending = s.stopPending := rfl
@[simp] theorem State.noteDifference_viol (s : State) (i : Fin 6) : (s.noteDifference i).viol = s.viol := rfl
@[simp] theorem State.noteDifference_cnt (s : State) (i : Fin 6) : (s.noteDifference i).cnt = s.cnt := rfl
@[simp] theorem State.noteDifference_wrap (s : State) (i : Fin 6) : (s.noteDifference i).wrap = s.wrap := rfl
@[simp] theorem State.noteDifference_fq (s : State) (i : Fin 6) : (s.noteDifference i).fq = s.fq := rfl
@[simp] theorem State.noteDifference_pinOut (s : State) (i : Fin 6) : (s.noteDifference i).pinOut = s.pinOut := rfl
@[simp] theorem State.noteDifference_pinOe (s : State) (i : Fin 6) : (s.noteDifference i).pinOe = s.pinOe := rfl
@[simp] theorem State.noteDifference_rsp (s : State) (i : Fin 6) : (s.noteDifference i).rsp = s.rsp := rfl
@[simp] theorem State.noteDifference_hostInputs (s : State) (i : Fin 6) : (s.noteDifference i).hostInputs = s.hostInputs := rfl
@[simp] theorem State.noteDifference_chan (s : State) (i : Fin 6) (j : Fin 6) : (s.noteDifference i).chan j = s.chan j := rfl
@[simp] theorem State.noteDifference_phase (s : State) (i : Fin 6) : (s.noteDifference i).phase = s.phase := rfl

/-! ### `configure` -/

@[simp] theorem State.configure_count (s : State) (n : Index) (slots : List Index) : (s.configure n slots).count = n := rfl
@[simp] theorem State.configure_started (s : State) (n : Index) (slots : List Index) : (s.configure n slots).started = s.started := rfl
@[simp] theorem State.configure_moving (s : State) (n : Index) (slots : List Index) : (s.configure n slots).moving = false := rfl
@[simp] theorem State.configure_stopPending (s : State) (n : Index) (slots : List Index) : (s.configure n slots).stopPending = s.stopPending := rfl
@[simp] theorem State.configure_viol (s : State) (n : Index) (slots : List Index) : (s.configure n slots).viol = s.viol := rfl
@[simp] theorem State.configure_cnt (s : State) (n : Index) (slots : List Index) : (s.configure n slots).cnt = s.cnt := rfl
@[simp] theorem State.configure_wrap (s : State) (n : Index) (slots : List Index) : (s.configure n slots).wrap = s.wrap := rfl
@[simp] theorem State.configure_fq (s : State) (n : Index) (slots : List Index) : (s.configure n slots).fq = s.fq := rfl
@[simp] theorem State.configure_pinOut (s : State) (n : Index) (slots : List Index) : (s.configure n slots).pinOut = s.pinOut := rfl
@[simp] theorem State.configure_pinOe (s : State) (n : Index) (slots : List Index) : (s.configure n slots).pinOe = (slots.take n.toNat).foldl pinSet s.pinOe := rfl
@[simp] theorem State.configure_rsp (s : State) (n : Index) (slots : List Index) : (s.configure n slots).rsp = s.rsp := rfl
@[simp] theorem State.configure_hostInputs (s : State) (n : Index) (slots : List Index) : (s.configure n slots).hostInputs = s.hostInputs := rfl
@[simp] theorem State.configure_phase (s : State) (n : Index) (slots : List Index) : (s.configure n slots).phase = s.phase := rfl

/-! ### `completeStop` -/

@[simp] theorem State.completeStop_table (s : State) : s.completeStop.table = s.table := rfl
@[simp] theorem State.completeStop_count (s : State) : s.completeStop.count = s.count := rfl
@[simp] theorem State.completeStop_started (s : State) : s.completeStop.started = false := rfl
@[simp] theorem State.completeStop_moving (s : State) : s.completeStop.moving = s.moving := rfl
@[simp] theorem State.completeStop_stopPending (s : State) : s.completeStop.stopPending = false := rfl
@[simp] theorem State.completeStop_viol (s : State) : s.completeStop.viol = s.viol := rfl
@[simp] theorem State.completeStop_cnt (s : State) : s.completeStop.cnt = s.cnt := rfl
@[simp] theorem State.completeStop_wrap (s : State) : s.completeStop.wrap = s.wrap := rfl
@[simp] theorem State.completeStop_fq (s : State) : s.completeStop.fq = s.fq := rfl
@[simp] theorem State.completeStop_pinOe (s : State) : s.completeStop.pinOe = s.pinOe := rfl
@[simp] theorem State.completeStop_rsp (s : State) : s.completeStop.rsp = some ⟨none, 0⟩ := rfl
@[simp] theorem State.completeStop_hostInputs (s : State) : s.completeStop.hostInputs = s.hostInputs := rfl
@[simp] theorem State.completeStop_chan (s : State) (j : Fin 6) : s.completeStop.chan j = s.chan j := rfl
@[simp] theorem State.completeStop_phase (s : State) : s.completeStop.phase = s.phase := rfl

/-! ### `interpolate` -/

@[simp] theorem State.interpolate_count (s : State) : s.interpolate.count = s.count := rfl
@[simp] theorem State.interpolate_started (s : State) : s.interpolate.started = s.started := rfl
@[simp] theorem State.interpolate_moving (s : State) : s.interpolate.moving = s.anyDiffers := rfl
@[simp] theorem State.interpolate_stopPending (s : State) : s.interpolate.stopPending = s.stopPending := rfl
@[simp] theorem State.interpolate_viol (s : State) : s.interpolate.viol = s.viol := rfl
@[simp] theorem State.interpolate_cnt (s : State) : s.interpolate.cnt = s.cnt := rfl
@[simp] theorem State.interpolate_wrap (s : State) : s.interpolate.wrap = s.wrap := rfl
@[simp] theorem State.interpolate_fq (s : State) : s.interpolate.fq = s.fq := rfl
@[simp] theorem State.interpolate_pinOut (s : State) : s.interpolate.pinOut = s.pinOut := rfl
@[simp] theorem State.interpolate_pinOe (s : State) : s.interpolate.pinOe = s.pinOe := rfl
@[simp] theorem State.interpolate_rsp (s : State) : s.interpolate.rsp = s.rsp := rfl
@[simp] theorem State.interpolate_hostInputs (s : State) : s.interpolate.hostInputs = s.hostInputs := rfl
@[simp] theorem State.interpolate_phase (s : State) : s.interpolate.phase = s.phase := rfl

/-! ### `emitEdges` -/

@[simp] theorem State.emitEdges_table (s : State) : s.emitEdges.table = s.table := rfl
@[simp] theorem State.emitEdges_count (s : State) : s.emitEdges.count = s.count := rfl
@[simp] theorem State.emitEdges_started (s : State) : s.emitEdges.started = s.started := rfl
@[simp] theorem State.emitEdges_moving (s : State) : s.emitEdges.moving = s.moving := rfl
@[simp] theorem State.emitEdges_stopPending (s : State) : s.emitEdges.stopPending = s.stopPending := rfl
@[simp] theorem State.emitEdges_viol (s : State) : s.emitEdges.viol = s.viol := rfl
@[simp] theorem State.emitEdges_cnt (s : State) : s.emitEdges.cnt = s.cnt := rfl
@[simp] theorem State.emitEdges_wrap (s : State) : s.emitEdges.wrap = s.wrap := rfl
@[simp] theorem State.emitEdges_pinOe (s : State) : s.emitEdges.pinOe = s.pinOe := rfl
@[simp] theorem State.emitEdges_rsp (s : State) : s.emitEdges.rsp = s.rsp := rfl
@[simp] theorem State.emitEdges_hostInputs (s : State) : s.emitEdges.hostInputs = s.hostInputs := rfl
@[simp] theorem State.emitEdges_chan (s : State) (j : Fin 6) : s.emitEdges.chan j = s.chan j := rfl
@[simp] theorem State.emitEdges_phase (s : State) : s.emitEdges.phase = s.phase := rfl

/-! ### `serviceFalls` -/

@[simp] theorem State.serviceFalls_table (s : State) (p : Nat) : (s.serviceFalls p).table = s.table := rfl
@[simp] theorem State.serviceFalls_count (s : State) (p : Nat) : (s.serviceFalls p).count = s.count := rfl
@[simp] theorem State.serviceFalls_started (s : State) (p : Nat) : (s.serviceFalls p).started = s.started := rfl
@[simp] theorem State.serviceFalls_moving (s : State) (p : Nat) : (s.serviceFalls p).moving = s.moving := rfl
@[simp] theorem State.serviceFalls_stopPending (s : State) (p : Nat) : (s.serviceFalls p).stopPending = s.stopPending := rfl
@[simp] theorem State.serviceFalls_viol (s : State) (p : Nat) : (s.serviceFalls p).viol = s.viol := rfl
@[simp] theorem State.serviceFalls_cnt (s : State) (p : Nat) : (s.serviceFalls p).cnt = s.cnt := rfl
@[simp] theorem State.serviceFalls_wrap (s : State) (p : Nat) : (s.serviceFalls p).wrap = s.wrap := rfl
@[simp] theorem State.serviceFalls_fq (s : State) (p : Nat) : (s.serviceFalls p).fq = (serviceLoop p s.fq s.pinOut).1 := rfl
@[simp] theorem State.serviceFalls_pinOut (s : State) (p : Nat) : (s.serviceFalls p).pinOut = (serviceLoop p s.fq s.pinOut).2 := rfl
@[simp] theorem State.serviceFalls_pinOe (s : State) (p : Nat) : (s.serviceFalls p).pinOe = s.pinOe := rfl
@[simp] theorem State.serviceFalls_rsp (s : State) (p : Nat) : (s.serviceFalls p).rsp = s.rsp := rfl
@[simp] theorem State.serviceFalls_hostInputs (s : State) (p : Nat) : (s.serviceFalls p).hostInputs = s.hostInputs := rfl
@[simp] theorem State.serviceFalls_chan (s : State) (p : Nat) (j : Fin 6) : (s.serviceFalls p).chan j = s.chan j := rfl
@[simp] theorem State.serviceFalls_phase (s : State) (p : Nat) : (s.serviceFalls p).phase = s.phase := rfl

/-! ### `beginStep` -/

@[simp] theorem State.beginStep_table (s : State) (rest : List HostInput) : (s.beginStep rest).table = s.table := rfl
@[simp] theorem State.beginStep_count (s : State) (rest : List HostInput) : (s.beginStep rest).count = s.count := rfl
@[simp] theorem State.beginStep_started (s : State) (rest : List HostInput) : (s.beginStep rest).started = s.started := rfl
@[simp] theorem State.beginStep_moving (s : State) (rest : List HostInput) : (s.beginStep rest).moving = s.moving := rfl
@[simp] theorem State.beginStep_stopPending (s : State) (rest : List HostInput) : (s.beginStep rest).stopPending = s.stopPending := rfl
@[simp] theorem State.beginStep_viol (s : State) (rest : List HostInput) : (s.beginStep rest).viol = s.viol := rfl
@[simp] theorem State.beginStep_cnt (s : State) (rest : List HostInput) : (s.beginStep rest).cnt = s.cnt := rfl
@[simp] theorem State.beginStep_wrap (s : State) (rest : List HostInput) : (s.beginStep rest).wrap = s.wrap := rfl
@[simp] theorem State.beginStep_fq (s : State) (rest : List HostInput) : (s.beginStep rest).fq = s.fq := rfl
@[simp] theorem State.beginStep_pinOut (s : State) (rest : List HostInput) : (s.beginStep rest).pinOut = s.pinOut := rfl
@[simp] theorem State.beginStep_pinOe (s : State) (rest : List HostInput) : (s.beginStep rest).pinOe = s.pinOe := rfl
@[simp] theorem State.beginStep_rsp (s : State) (rest : List HostInput) : (s.beginStep rest).rsp = none := rfl
@[simp] theorem State.beginStep_hostInputs (s : State) (rest : List HostInput) : (s.beginStep rest).hostInputs = rest := rfl
@[simp] theorem State.beginStep_chan (s : State) (rest : List HostInput) (j : Fin 6) : (s.beginStep rest).chan j = s.chan j := rfl
@[simp] theorem State.beginStep_phase (s : State) (rest : List HostInput) : (s.beginStep rest).phase = s.phase := rfl

/-! ### `enableTimer` -/

@[simp] theorem State.enableTimer_table (s : State) : s.enableTimer.table = s.table := by
  unfold State.enableTimer; split <;> rfl
@[simp] theorem State.enableTimer_count (s : State) : s.enableTimer.count = s.count := by
  unfold State.enableTimer; split <;> rfl
@[simp] theorem State.enableTimer_moving (s : State) : s.enableTimer.moving = s.moving := by
  unfold State.enableTimer; split <;> rfl
@[simp] theorem State.enableTimer_stopPending (s : State) : s.enableTimer.stopPending = s.stopPending := by
  unfold State.enableTimer; split <;> rfl
@[simp] theorem State.enableTimer_viol (s : State) : s.enableTimer.viol = s.viol := by
  unfold State.enableTimer; split <;> rfl
@[simp] theorem State.enableTimer_fq (s : State) : s.enableTimer.fq = s.fq := by
  unfold State.enableTimer; split <;> rfl
@[simp] theorem State.enableTimer_pinOut (s : State) : s.enableTimer.pinOut = s.pinOut := by
  unfold State.enableTimer; split <;> rfl
@[simp] theorem State.enableTimer_pinOe (s : State) : s.enableTimer.pinOe = s.pinOe := by
  unfold State.enableTimer; split <;> rfl
@[simp] theorem State.enableTimer_rsp (s : State) : s.enableTimer.rsp = s.rsp := by
  unfold State.enableTimer; split <;> rfl
@[simp] theorem State.enableTimer_hostInputs (s : State) : s.enableTimer.hostInputs = s.hostInputs := by
  unfold State.enableTimer; split <;> rfl
@[simp] theorem State.enableTimer_chan (s : State) (j : Fin 6) : s.enableTimer.chan j = s.chan j := by
  simp [State.chan]

/-! ### `advanceTimeline` -/

@[simp] theorem State.advanceTimeline_table (s : State) : s.advanceTimeline.table = s.table := by
  unfold State.advanceTimeline; split <;> rfl
@[simp] theorem State.advanceTimeline_count (s : State) : s.advanceTimeline.count = s.count := by
  unfold State.advanceTimeline; split <;> rfl
@[simp] theorem State.advanceTimeline_started (s : State) : s.advanceTimeline.started = s.started := by
  unfold State.advanceTimeline; split <;> rfl
@[simp] theorem State.advanceTimeline_moving (s : State) : s.advanceTimeline.moving = s.moving := by
  unfold State.advanceTimeline; split <;> rfl
@[simp] theorem State.advanceTimeline_stopPending (s : State) : s.advanceTimeline.stopPending = s.stopPending := by
  unfold State.advanceTimeline; split <;> rfl
@[simp] theorem State.advanceTimeline_viol (s : State) : s.advanceTimeline.viol = s.viol := by
  unfold State.advanceTimeline; split <;> rfl
@[simp] theorem State.advanceTimeline_fq (s : State) : s.advanceTimeline.fq = s.fq := by
  unfold State.advanceTimeline; split <;> rfl
@[simp] theorem State.advanceTimeline_pinOut (s : State) : s.advanceTimeline.pinOut = s.pinOut := by
  unfold State.advanceTimeline; split <;> rfl
@[simp] theorem State.advanceTimeline_pinOe (s : State) : s.advanceTimeline.pinOe = s.pinOe := by
  unfold State.advanceTimeline; split <;> rfl
@[simp] theorem State.advanceTimeline_rsp (s : State) : s.advanceTimeline.rsp = s.rsp := by
  unfold State.advanceTimeline; split <;> rfl
@[simp] theorem State.advanceTimeline_hostInputs (s : State) : s.advanceTimeline.hostInputs = s.hostInputs := by
  unfold State.advanceTimeline; split <;> rfl
@[simp] theorem State.advanceTimeline_chan (s : State) (j : Fin 6) : s.advanceTimeline.chan j = s.chan j := by
  simp [State.chan]

/-! ### What the conditional updates write -/

@[simp] theorem State.enableTimer_started (s : State) : s.enableTimer.started = true := by
  unfold State.enableTimer; split <;> simp_all

theorem State.enableTimer_of_started {s : State} (h : s.started = true) : s.enableTimer = s := by
  simp [State.enableTimer, h]

theorem State.enableTimer_phase_of_stopped {s : State} (h : s.started = false) : s.enableTimer.phase = 0 := by
  simp [State.enableTimer, h, State.phase]

end Sys2Proof.Machine
end

