-- ==== Sys2Proof/Laws/Table.lean ====
section
/-! SUPPORT. Reading back the Channel Table after a write (R21), and the pins after a set or a clear (R36, R37). -/

namespace Sys2Proof.Machine

@[simp] theorem Table.get_tabulate (f : Fin 6 → Channel) (i : Fin 6) : (Table.tabulate f).get i = f i := by
  fin_cases i <;> rfl

@[simp] theorem Table.get_set_self (t : Table) (i : Fin 6) (c : Channel) : (t.set i c).get i = c := by
  simp [Table.set]

theorem Table.get_set_of_ne (t : Table) {i j : Fin 6} (c : Channel) (h : j ≠ i) : (t.set i c).get j = t.get j := by
  simp [Table.set, h]

/-- Two tables with the same entries are the same data. -/
theorem Table.ext_get {t u : Table} (h : ∀ i, t.get i = u.get i) : t = u := by
  cases t
  cases u
  simp only [Table.mk.injEq]
  exact ⟨h 0, h 1, h 2, h 3, h 4, h 5⟩

@[simp] theorem State.setChan_chan_self (s : State) (i : Fin 6) (c : Channel) : (s.setChan i c).chan i = c := by
  simp [State.chan, State.setChan]

theorem State.setChan_chan_of_ne (s : State) {i j : Fin 6} (c : Channel) (h : j ≠ i) :
    (s.setChan i c).chan j = s.chan j := by
  simp [State.chan, State.setChan, Table.get_set_of_ne _ _ h]

theorem getLsbD_pinMask (p : Index) (q : Nat) (hq : q < 6) : (pinMask p).getLsbD q = decide (p.toNat = q) := by
  simp only [pinMask, BitVec.getLsbD_shiftLeft, BitVec.getLsbD_one]
  by_cases h : p.toNat = q
  · simp [h, hq]
  · simp [h, hq]
    omega

theorem getLsbD_pinSet (v : BitVec 6) (p : Index) (q : Nat) (hq : q < 6) :
    (pinSet v p).getLsbD q = (v.getLsbD q || decide (p.toNat = q)) := by
  simp [pinSet, getLsbD_pinMask p q hq]

theorem getLsbD_pinClear (v : BitVec 6) (p : Index) (q : Nat) (hq : q < 6) :
    (pinClear v p).getLsbD q = (v.getLsbD q && !decide (p.toNat = q)) := by
  simp only [pinClear, BitVec.getLsbD_and, BitVec.getLsbD_not, getLsbD_pinMask p q hq, hq, decide_true, Bool.true_and]

/-- Setting the pins of a list sets exactly those bits. -/
theorem getLsbD_foldl_pinSet (ps : List Index) (v : BitVec 6) (q : Nat) (hq : q < 6) :
    (ps.foldl pinSet v).getLsbD q = (v.getLsbD q || ps.any fun p => decide (p.toNat = q)) := by
  induction ps generalizing v with
  | nil => simp
  | cons p ps ih => simp [ih, getLsbD_pinSet v p q hq, Bool.or_assoc]

/-- Clearing the pins of a list of channels clears exactly those bits. -/
theorem getLsbD_foldl_pinClear {α : Type} (pin : α → Index) (l : List α) (v : BitVec 6) (q : Nat) (hq : q < 6) :
    (l.foldl (fun v i => pinClear v (pin i)) v).getLsbD q =
      (v.getLsbD q && !l.any fun i => decide ((pin i).toNat = q)) := by
  induction l generalizing v with
  | nil => simp
  | cons a l ih => simp [ih, getLsbD_pinClear v (pin a) q hq, Bool.and_assoc]

/-- The loop over configured servos visits exactly the servo numbers below `count`. -/
theorem State.mem_servos (s : State) (i : Fin 6) : i ∈ s.servos ↔ s.Configured i := by
  have h : i ∈ ([0, 1, 2, 3, 4, 5] : List (Fin 6)) := by fin_cases i <;> decide
  simp [State.servos, h]

end Sys2Proof.Machine
end

