-- ==== Sys2Proof/Laws/Commands.lean ====
section
/-! SUPPORT. What a command can do, said once: the servo-number check (R130), START.LIST's checks (R110), and that every
command answers a next state. -/

namespace Sys2Proof.Machine

/-- A configured servo number passes the check. -/
theorem State.withChannel_of_configured (s : State) {num : Index} {i : Fin 6} (k : Fin 6 → State)
    (hi : num.toNat = i.val) (hc : s.Configured i) : s.withChannel num k = k i := by
  have h6 : num.toNat < 6 := hi ▸ i.isLt
  have hlt : num.toNat < s.count.toNat := hi ▸ hc
  simp only [State.withChannel, h6, hlt, dif_pos, if_true]
  congr 1
  exact Fin.ext hi

/-- Any other servo number is refused. -/
theorem State.withChannel_of_illegal (s : State) {num : Index} (k : Fin 6 → State)
    (h : s.count.toNat ≤ num.toNat ∨ 6 ≤ num.toNat) : s.withChannel num k = s.raiseViolation .eNum := by
  unfold State.withChannel
  split
  · rw [if_neg (by omega)]
  · rfl

/-- The two outcomes of the servo-number check. -/
theorem State.withChannel_cases (s : State) (num : Index) (k : Fin 6 → State) :
    ((s.count.toNat ≤ num.toNat ∨ 6 ≤ num.toNat) ∧ s.withChannel num k = s.raiseViolation .eNum) ∨
      ∃ i : Fin 6, num.toNat = i.val ∧ s.Configured i ∧ s.withChannel num k = k i := by
  by_cases h : s.count.toNat ≤ num.toNat ∨ 6 ≤ num.toNat
  · exact .inl ⟨h, s.withChannel_of_illegal k h⟩
  · simp only [not_or, Nat.not_le] at h
    exact .inr ⟨⟨num.toNat, h.2⟩, rfl, h.1, s.withChannel_of_configured (i := ⟨num.toNat, h.2⟩) k rfl h.1⟩

/-- START.LIST's four checks pass exactly on the lists R110 calls valid. -/
theorem startListViolation_eq_none_iff (n : Index) (slots : List Index) :
    startListViolation n slots = none ↔
      (1 ≤ n.toNat ∧ n.toNat ≤ 6) ∧ (∀ p ∈ slots.drop n.toNat, p = 0) ∧
        (∀ p ∈ slots.take n.toNat, p.toNat ≤ 5) ∧ (slots.take n.toNat).Nodup := by
  unfold startListViolation
  split
  · rename_i h; simp [h]
  · rename_i h0
    split
    · rename_i h
      simp only [List.any_eq_true, bne_iff_ne] at h
      obtain ⟨p, hp, hne⟩ := h
      simp only [reduceCtorEq, false_iff, not_and]
      exact fun _ hz => absurd (hz p hp) hne
    · rename_i h1
      split
      · rename_i h
        simp only [List.any_eq_true, decide_eq_true_eq] at h
        obtain ⟨p, hp, hgt⟩ := h
        simp only [reduceCtorEq, false_iff, not_and]
        exact fun _ _ hle => absurd (hle p hp) (by omega)
      · rename_i h2
        simp only [Bool.not_eq_true, List.any_eq_false, bne_iff_ne, ne_eq, not_not, decide_eq_true_eq,
          Nat.not_lt] at h0 h1 h2
        split
        · rename_i h; simp [h]
        · rename_i h; simp only [not_not] at h; exact ⟨fun _ => ⟨h0, h1, h2, h⟩, fun _ => rfl⟩

/-- The two outcomes of START.LIST. -/
theorem execStartList_cases (n p0 p1 p2 p3 p4 p5 : Index) (s : State) :
    (∃ v, startListViolation n [p0, p1, p2, p3, p4, p5] = some v ∧
      execStartList n p0 p1 p2 p3 p4 p5 s = .next (s.raiseViolation v)) ∨
    (startListViolation n [p0, p1, p2, p3, p4, p5] = none ∧
      execStartList n p0 p1 p2 p3 p4 p5 s =
        .next ((s.configure n [p0, p1, p2, p3, p4, p5]).enableTimer.respond 0)) := by
  unfold execStartList
  cases h : startListViolation n [p0, p1, p2, p3, p4, p5] with
  | some v => exact .inl ⟨v, rfl, rfl⟩
  | none => exact .inr ⟨rfl, rfl⟩

/-- The three outcomes of STOP (R114). -/
theorem execStop_cases (s : State) :
    (s.started = false ∧ execStop s = .next (s.respond 0)) ∨
    (s.started = true ∧ s.fq = [] ∧ execStop s = .next s.completeStop) ∨
    (s.started = true ∧ s.fq ≠ [] ∧ execStop s = .next { s with stopPending := true }) := by
  unfold execStop
  cases hs : s.started
  · exact .inl ⟨rfl, by simp⟩
  · cases hq : s.fq
    · exact .inr (.inl ⟨rfl, rfl, by simp⟩)
    · exact .inr (.inr ⟨rfl, by simp, by simp⟩)

/-- Every command answers a next state. -/
theorem exec_next (i : Instr) (s : State) : ∃ t, exec i s = .next t := by
  cases i with
  | startList n p0 p1 p2 p3 p4 p5 =>
    rcases execStartList_cases n p0 p1 p2 p3 p4 p5 s with ⟨v, -, h⟩ | ⟨-, h⟩ <;> exact ⟨_, h⟩
  | startKeep => exact ⟨_, rfl⟩
  | stop => rcases execStop_cases s with ⟨-, h⟩ | ⟨-, -, h⟩ | ⟨-, -, h⟩ <;> exact ⟨_, h⟩
  | isStarted => exact ⟨_, rfl⟩
  | isMoving => exact ⟨_, rfl⟩
  | setTarget num val => exact ⟨_, rfl⟩
  | getTarget num => exact ⟨_, rfl⟩
  | setSpeed num val => exact ⟨_, rfl⟩
  | getSpeed num => exact ⟨_, rfl⟩
  | getPosition num => exact ⟨_, rfl⟩
  | setTargetHr num val => exact ⟨_, rfl⟩
  | getTargetHr num => exact ⟨_, rfl⟩
  | getPositionHr num => exact ⟨_, rfl⟩

end Sys2Proof.Machine
end

