-- ==== Sys2Proof/Laws/Encoding.lean ====
section
/-! SUPPORT. Command words as numbers: a field is a quotient and a remainder, an encoded word is a sum (R81 to R87).
Questions about bits become linear arithmetic. -/

namespace Sys2Proof

/-- The field of `k` bits from bit `s`, as a number (R8). -/
theorem extractLsb'_eq_div_mod (w : CmdWord) (s k : Nat) : (w.extractLsb' s k).toNat = w.toNat / 2 ^ s % 2 ^ k := by
  simp [BitVec.extractLsb'_toNat, Nat.shiftRight_eq_div_pow]

theorem opField_toNat (w : CmdWord) : (opField w).toNat = w.toNat / 2 ^ 28 := by
  have := w.isLt
  simp only [opField, extractLsb'_eq_div_mod]
  omega

theorem numField_toNat (w : CmdWord) : (numField w).toNat = w.toNat / 2 ^ 16 % 8 :=
  extractLsb'_eq_div_mod w 16 3

theorem valField_toNat (w : CmdWord) : (valField w).toNat = w.toNat % 2 ^ 16 := by
  simp [valField]

theorem countField_toNat (w : CmdWord) : (countField w).toNat = w.toNat / 2 ^ 18 % 8 :=
  extractLsb'_eq_div_mod w 18 3

theorem pinField_toNat (w : CmdWord) (j : Nat) : (pinField w j).toNat = w.toNat / 2 ^ (3 * j) % 8 :=
  extractLsb'_eq_div_mod w (3 * j) 3

theorem encodeN_toNat (op : BitVec 4) : (encodeN op).toNat = op.toNat * 2 ^ 28 := by
  have := op.isLt
  simp only [encodeN, BitVec.toNat_ofNat]
  omega

theorem encodeC_toNat (op : BitVec 4) (num : Index) :
    (encodeC op num).toNat = op.toNat * 2 ^ 28 + num.toNat * 2 ^ 16 := by
  have := op.isLt
  have := num.isLt
  simp only [encodeC, BitVec.toNat_ofNat]
  omega

theorem encodeV_toNat (op : BitVec 4) (num : Index) (val : Half) :
    (encodeV op num val).toNat = op.toNat * 2 ^ 28 + num.toNat * 2 ^ 16 + val.toNat := by
  have := op.isLt
  have := num.isLt
  have := val.isLt
  simp only [encodeV, BitVec.toNat_ofNat]
  omega

theorem encodeS_toNat (keep : BitVec 1) (n p0 p1 p2 p3 p4 p5 : Index) :
    (encodeS keep n p0 p1 p2 p3 p4 p5).toNat =
      2 ^ 28 + keep.toNat * 2 ^ 21 + n.toNat * 2 ^ 18 + p5.toNat * 2 ^ 15 + p4.toNat * 2 ^ 12 +
        p3.toNat * 2 ^ 9 + p2.toNat * 2 ^ 6 + p1.toNat * 2 ^ 3 + p0.toNat := by
  have := keep.isLt
  have := n.isLt
  have := p0.isLt
  have := p1.isLt
  have := p2.isLt
  have := p3.isLt
  have := p4.isLt
  have := p5.isLt
  simp only [encodeS, BitVec.toNat_ofNat]
  omega

/-! ### The masks of R86 -/

theorem and_highMask (w : CmdWord) (s : Nat) : w &&& (BitVec.allOnes 32 <<< s) = (w >>> s) <<< s := by
  ext j hj
  simp only [BitVec.getElem_and, BitVec.getElem_shiftLeft, BitVec.getElem_allOnes, BitVec.getElem_ushiftRight]
  by_cases h : j < s
  · simp [h]
  · simp [h, show s + (j - s) = j by omega, BitVec.getLsbD_eq_getElem hj]

/-- The mask of the bits from `s` up keeps the quotient by `2 ^ s`. -/
theorem and_highMask_toNat (w : CmdWord) (s : Nat) :
    (w &&& (BitVec.allOnes 32 <<< s)).toNat = w.toNat / 2 ^ s * 2 ^ s := by
  have hw := w.isLt
  have := Nat.div_mul_le_self w.toNat (2 ^ s)
  rw [and_highMask, BitVec.toNat_shiftLeft, BitVec.toNat_ushiftRight, Nat.shiftRight_eq_div_pow, Nat.shiftLeft_eq]
  exact Nat.mod_eq_of_lt (by omega)

/-- The mask of the bits below `s` keeps the remainder by `2 ^ s`. -/
theorem and_lowMask_toNat (w : CmdWord) (s : Nat) (h : s ≤ 32) :
    (w &&& BitVec.ofNat 32 (2 ^ s - 1)).toNat = w.toNat % 2 ^ s := by
  have := Nat.pow_le_pow_right (n := 2) (by decide) h
  have := Nat.two_pow_pos s
  rw [BitVec.toNat_and, BitVec.toNat_ofNat, Nat.mod_eq_of_lt (by omega), Nat.and_two_pow_sub_one_eq_mod]

/-- START.LIST's mask (R86). -/
theorem and_maskS_toNat (w : CmdWord) : (w &&& 0xFFE00000#32).toNat = w.toNat / 2 ^ 21 * 2 ^ 21 :=
  and_highMask_toNat w 21

/-- The mask of format V (R86). -/
theorem and_maskV_toNat (w : CmdWord) : (w &&& 0xFFF80000#32).toNat = w.toNat / 2 ^ 19 * 2 ^ 19 :=
  and_highMask_toNat w 19

/-- The mask of format C (R86). -/
theorem and_maskC_toNat (w : CmdWord) :
    (w &&& 0xFFF8FFFF#32).toNat = w.toNat / 2 ^ 19 * 2 ^ 19 + w.toNat % 2 ^ 16 := by
  have distrib : ∀ a b : CmdWord, w &&& (a ||| b) = (w &&& a) ||| (w &&& b) := by
    intro a b
    ext j hj
    simp only [BitVec.getElem_and, BitVec.getElem_or]
    cases w[j] <;> simp
  have disjoint : ∀ a b : CmdWord, a &&& b = 0#32 → (w &&& a) &&& (w &&& b) = 0#32 := by
    intro a b h
    rw [show (w &&& a) &&& (w &&& b) = w &&& (a &&& b) by
      ext j hj
      simp only [BitVec.getElem_and]
      cases w[j] <;> simp, h]
    simp
  have hlow : (w &&& 0x0000FFFF#32).toNat = w.toNat % 2 ^ 16 := and_lowMask_toNat w 16 (by decide)
  have := w.isLt
  rw [show 0xFFF8FFFF#32 = 0xFFF80000#32 ||| 0x0000FFFF#32 by decide, distrib,
    ← BitVec.add_eq_or_of_and_eq_zero _ _ (disjoint _ _ (by decide)), BitVec.toNat_add, and_maskV_toNat, hlow]
  omega

end Sys2Proof
end

