-- ==== Sys2Proof/Laws/Decode.lean ====
section
/-! SUPPORT. What the decoder does for each value of `op` (R85, R92), so that no proof unfolds its chain of tests. -/

namespace Sys2Proof

theorem decode_of_op_1 {w : CmdWord} (h : opField w = 1#4) : decode w = decodeStart w := by
  simp [decode, opReserved, h]

theorem decode_of_op_2 {w : CmdWord} (h : opField w = 2#4) : decode w = decodeN w .stop := by
  simp [decode, opReserved, h]

theorem decode_of_op_3 {w : CmdWord} (h : opField w = 3#4) : decode w = decodeN w .isStarted := by
  simp [decode, opReserved, h]

theorem decode_of_op_4 {w : CmdWord} (h : opField w = 4#4) : decode w = decodeN w .isMoving := by
  simp [decode, opReserved, h]

theorem decode_of_op_5 {w : CmdWord} (h : opField w = 5#4) : decode w = decodeV w .setTarget := by
  simp [decode, opReserved, h]

theorem decode_of_op_6 {w : CmdWord} (h : opField w = 6#4) : decode w = decodeC w .getTarget := by
  simp [decode, opReserved, h]

theorem decode_of_op_7 {w : CmdWord} (h : opField w = 7#4) : decode w = decodeV w .setSpeed := by
  simp [decode, opReserved, h]

theorem decode_of_op_8 {w : CmdWord} (h : opField w = 8#4) : decode w = decodeC w .getSpeed := by
  simp [decode, opReserved, h]

theorem decode_of_op_9 {w : CmdWord} (h : opField w = 9#4) : decode w = decodeC w .getPosition := by
  simp [decode, opReserved, h]

theorem decode_of_op_10 {w : CmdWord} (h : opField w = 10#4) : decode w = decodeV w .setTargetHr := by
  simp [decode, opReserved, h]

theorem decode_of_op_11 {w : CmdWord} (h : opField w = 11#4) : decode w = decodeC w .getTargetHr := by
  simp [decode, opReserved, h]

theorem decode_of_op_12 {w : CmdWord} (h : opField w = 12#4) : decode w = decodeC w .getPositionHr := by
  simp [decode, opReserved, h]

theorem decode_of_reserved_op {w : CmdWord} (h : opReserved (opField w) = true) : decode w = .error .eOpcode := by
  simp [decode, h]

/-- `op` is reserved or one of 1 to 12 (R85). -/
theorem opField_cases (w : CmdWord) :
    opReserved (opField w) = true ∨ opField w = 1#4 ∨ opField w = 2#4 ∨ opField w = 3#4 ∨ opField w = 4#4 ∨
      opField w = 5#4 ∨ opField w = 6#4 ∨ opField w = 7#4 ∨ opField w = 8#4 ∨ opField w = 9#4 ∨
      opField w = 10#4 ∨ opField w = 11#4 ∨ opField w = 12#4 := by
  generalize opField w = op
  revert op
  decide

end Sys2Proof
end

