-- ==== Sys2Proof/Laws/PerInstr.lean ====
section
/-! SUPPORT. One lemma per command: its word matches its row of the opcode table (R86). -/

namespace Sys2Proof.Laws

/-- A word of format V, under its mask, is its `op`. -/
theorem encodeV_and_mask (op : BitVec 4) (num : Index) (val : Half) :
    encodeV op num val &&& 0xFFF80000#32 = encodeN op := by
  have := num.isLt
  have := val.isLt
  apply BitVec.eq_of_toNat_eq
  rw [and_maskV_toNat, encodeV_toNat, encodeN_toNat]
  omega

/-- A word of format C, under its mask, is its `op`. -/
theorem encodeC_and_mask (op : BitVec 4) (num : Index) : encodeC op num &&& 0xFFF8FFFF#32 = encodeN op := by
  have := num.isLt
  apply BitVec.eq_of_toNat_eq
  rw [and_maskC_toNat, encodeC_toNat, encodeN_toNat]
  omega

/-- The word of the command matches its row of the opcode table (R86). -/
def MatchesTable.Statement (i : Instr) : Prop := encode i &&& i.tableRow.2 = i.tableRow.1

theorem MatchesTable.startList (n p0 p1 p2 p3 p4 p5 : Index) : MatchesTable.Statement (.startList n p0 p1 p2 p3 p4 p5) := by
  have := n.isLt
  have := p0.isLt
  have := p1.isLt
  have := p2.isLt
  have := p3.isLt
  have := p4.isLt
  have := p5.isLt
  apply BitVec.eq_of_toNat_eq
  refine (and_maskS_toNat _).trans ?_
  change _ = 268435456
  simp only [encode, encodeS_toNat, BitVec.toNat_ofNat]
  omega

theorem MatchesTable.startKeep : MatchesTable.Statement .startKeep := by
  unfold MatchesTable.Statement
  decide

theorem MatchesTable.stop : MatchesTable.Statement .stop := by
  unfold MatchesTable.Statement
  decide

theorem MatchesTable.isStarted : MatchesTable.Statement .isStarted := by
  unfold MatchesTable.Statement
  decide

theorem MatchesTable.isMoving : MatchesTable.Statement .isMoving := by
  unfold MatchesTable.Statement
  decide

theorem MatchesTable.setTarget (num : Index) (val : Half) : MatchesTable.Statement (.setTarget num val) := encodeV_and_mask _ num val

theorem MatchesTable.getTarget (num : Index) : MatchesTable.Statement (.getTarget num) := encodeC_and_mask _ num

theorem MatchesTable.setSpeed (num : Index) (val : Half) : MatchesTable.Statement (.setSpeed num val) := encodeV_and_mask _ num val

theorem MatchesTable.getSpeed (num : Index) : MatchesTable.Statement (.getSpeed num) := encodeC_and_mask _ num

theorem MatchesTable.getPosition (num : Index) : MatchesTable.Statement (.getPosition num) := encodeC_and_mask _ num

theorem MatchesTable.setTargetHr (num : Index) (val : Half) : MatchesTable.Statement (.setTargetHr num val) := encodeV_and_mask _ num val

theorem MatchesTable.getTargetHr (num : Index) : MatchesTable.Statement (.getTargetHr num) := encodeC_and_mask _ num

theorem MatchesTable.getPositionHr (num : Index) : MatchesTable.Statement (.getPositionHr num) := encodeC_and_mask _ num

end Sys2Proof.Laws
end

