-- ==== Sys2Proof/Laws/Queue.lean ====
section
/-! SUPPORT. The fall queue: what insertion, EmitEdges's loop and fall service's loop do (R156, R158). -/

namespace Sys2Proof.Machine

/-! ### Insertion -/

theorem insertFall_perm (e : FallEvent) (l : List FallEvent) : (insertFall e l).Perm (e :: l) := by
  induction l with
  | nil => exact .refl _
  | cons x xs ih =>
    unfold insertFall
    split
    · exact (ih.cons x).trans (.swap e x xs)
    · exact .refl _

@[simp] theorem mem_insertFall {e a : FallEvent} {l : List FallEvent} : a ∈ insertFall e l ↔ a = e ∨ a ∈ l := by
  rw [(insertFall_perm e l).mem_iff, List.mem_cons]

@[simp] theorem length_insertFall (e : FallEvent) (l : List FallEvent) : (insertFall e l).length = l.length + 1 := by
  rw [(insertFall_perm e l).length_eq, List.length_cons]

/-- Inserting into a sorted queue gives a sorted queue. -/
theorem insertFall_sorted (e : FallEvent) {l : List FallEvent} (h : l.Pairwise fun a b => a.t.toNat ≤ b.t.toNat) :
    (insertFall e l).Pairwise fun a b => a.t.toNat ≤ b.t.toNat := by
  induction l with
  | nil => simp [insertFall]
  | cons x xs ih =>
    obtain ⟨hx, hxs⟩ := List.pairwise_cons.mp h
    unfold insertFall
    split
    · refine List.pairwise_cons.mpr ⟨fun a ha => ?_, ih hxs⟩
      rcases mem_insertFall.mp ha with rfl | ha
      · assumption
      · exact hx a ha
    · refine List.pairwise_cons.mpr ⟨fun a ha => ?_, h⟩
      rcases List.mem_cons.mp ha with rfl | ha
      · omega
      · have := hx a ha
        omega

/-! ### Fall service -/

/-- The loop of fall service splits the queue into the due entries and the rest, and lowers exactly the due pins. -/
theorem serviceLoop_spec (p : Nat) (l : List FallEvent) (out : BitVec 6) :
    ∃ due, l = due ++ (serviceLoop p l out).1 ∧ (∀ e ∈ due, e.t.toNat = p) ∧
      (∀ e, (serviceLoop p l out).1.head? = some e → e.t.toNat ≠ p) ∧
      (serviceLoop p l out).2 = due.foldl (fun v e => pinClear v e.pin) out := by
  induction l generalizing out with
  | nil => exact ⟨[], by simp [serviceLoop]⟩
  | cons e rest ih =>
    unfold serviceLoop
    split
    · rename_i he
      obtain ⟨due, h1, h2, h3, h4⟩ := ih (pinClear out e.pin)
      refine ⟨e :: due, by simp [← h1], ?_, h3, by simpa using h4⟩
      intro a ha
      rcases List.mem_cons.mp ha with rfl | ha
      · exact he
      · exact h2 a ha
    · rename_i he
      exact ⟨[], by simp, by simp, by simpa using he, by simp⟩

/-- On a queue sorted by time with no time before `p`, fall service removes exactly the entries of time `p`. -/
theorem serviceLoop_fst_of_sorted {p : Nat} {l : List FallEvent} {out : BitVec 6}
    (hs : l.Pairwise fun a b => a.t.toNat ≤ b.t.toNat) (hp : ∀ e ∈ l, p ≤ e.t.toNat) :
    (serviceLoop p l out).1 = l.filter fun e => decide (e.t.toNat ≠ p) := by
  induction l generalizing out with
  | nil => simp [serviceLoop]
  | cons e rest ih =>
    obtain ⟨he, hrest⟩ := List.pairwise_cons.mp hs
    have hle := hp e (.head _)
    unfold serviceLoop
    split
    · rename_i hep
      rw [ih hrest fun a ha => hp a (.tail _ ha), List.filter_cons_of_neg (by simp [hep])]
    · rename_i hep
      symm
      rw [List.filter_eq_self]
      intro a ha
      rcases List.mem_cons.mp ha with rfl | ha
      · simpa using hep
      · have := he a ha
        simp only [ne_eq, decide_eq_true_eq]
        omega

/-- With nothing due, fall service does nothing. -/
theorem serviceLoop_of_not_due {p : Nat} {l : List FallEvent} (out : BitVec 6) (h : ∀ e ∈ l, e.t.toNat ≠ p) :
    serviceLoop p l out = (l, out) := by
  cases l with
  | nil => rfl
  | cons e rest => simp [serviceLoop, h e (.head _)]

/-! ### EmitEdges's loop -/

/-- The fall events of channels in turn, as EmitEdges inserts them. -/
theorem emit_foldl_mem (chan : Fin 6 → Channel) (l : List (Fin 6)) (acc : BitVec 6 × List FallEvent) (e : FallEvent) :
    e ∈ (l.foldl (fun acc i => emitChannel acc (chan i)) acc).2 ↔
      e ∈ acc.2 ∨ ∃ i ∈ l, (chan i).position ≠ 0 ∧ e = ⟨(chan i).position, (chan i).pin⟩ := by
  induction l generalizing acc with
  | nil => simp
  | cons i l ih =>
    rw [List.foldl_cons, ih]
    unfold emitChannel
    split <;> rename_i h <;> simp [h]
    tauto

/-- EmitEdges's loop keeps its queue sorted. -/
theorem emit_foldl_sorted (chan : Fin 6 → Channel) (l : List (Fin 6)) (acc : BitVec 6 × List FallEvent)
    (h : acc.2.Pairwise fun a b => a.t.toNat ≤ b.t.toNat) :
    (l.foldl (fun acc i => emitChannel acc (chan i)) acc).2.Pairwise fun a b => a.t.toNat ≤ b.t.toNat := by
  induction l generalizing acc with
  | nil => exact h
  | cons i l ih =>
    rw [List.foldl_cons]
    apply ih
    unfold emitChannel
    split
    · exact h
    · exact insertFall_sorted _ h

/-- Up to order, EmitEdges's queue is the list of falls of the channels with a width. -/
theorem emit_foldl_perm (chan : Fin 6 → Channel) (l : List (Fin 6)) (acc : BitVec 6 × List FallEvent) :
    (l.foldl (fun acc i => emitChannel acc (chan i)) acc).2.Perm
      (((l.filter fun i => (chan i).position != 0).map fun i => ⟨(chan i).position, (chan i).pin⟩) ++ acc.2) := by
  induction l generalizing acc with
  | nil => exact .refl _
  | cons i l ih =>
    rw [List.foldl_cons]
    refine (ih _).trans ?_
    unfold emitChannel
    by_cases h : (chan i).position = 0
    · simp [h]
    · simp only [h, if_false]
      refine ((insertFall_perm _ _).append_left _).trans ?_
      simp only [bne_iff_ne, ne_eq, h, not_false_eq_true, List.filter_cons_of_pos, List.map_cons, List.cons_append]
      exact List.perm_middle

/-- EmitEdges's loop raises exactly the pins of the channels with a width. -/
theorem emit_foldl_pin (chan : Fin 6 → Channel) (l : List (Fin 6)) (acc : BitVec 6 × List FallEvent) (q : Nat)
    (hq : q < 6) :
    (l.foldl (fun acc i => emitChannel acc (chan i)) acc).1.getLsbD q = true ↔
      acc.1.getLsbD q = true ∨ ∃ i ∈ l, (chan i).position ≠ 0 ∧ (chan i).pin.toNat = q := by
  induction l generalizing acc with
  | nil => simp
  | cons i l ih =>
    rw [List.foldl_cons, ih]
    unfold emitChannel
    split <;> rename_i h <;> simp [h, getLsbD_pinSet _ _ q hq]
    tauto

end Sys2Proof.Machine
end

