-- ==== Sys2Proof/Laws/Tick.lean ====
section
/-! SUPPORT. What a tick step can do, said once (R150), and the timeline (R160). -/

namespace Sys2Proof.Machine

/-- The four ways a tick step goes. -/
theorem State.tick_cases (s : State) :
    (s.started = false ∧ s.tick = s) ∨
    (s.started = true ∧ s.phase = 0 ∧ s.stopPending = false ∧
      s.tick = ((s.interpolate.emitEdges).serviceFalls 0).advanceTimeline) ∨
    (s.started = true ∧ (s.phase ≠ 0 ∨ s.stopPending = true) ∧
      ¬(s.stopPending = true ∧ (s.serviceFalls s.phase).fq = []) ∧
      s.tick = (s.serviceFalls s.phase).advanceTimeline) ∨
    (s.started = true ∧ s.stopPending = true ∧ (s.serviceFalls s.phase).fq = [] ∧
      s.tick = (s.serviceFalls s.phase).completeStop) := by
  cases hs : s.started
  · exact .inl ⟨rfl, by simp [State.tick, hs]⟩
  by_cases h : s.phase = 0 ∧ s.stopPending = false
  · refine .inr (.inl ⟨rfl, h.1, h.2, ?_⟩)
    simp [State.tick, hs, h, State.finishTick, State.periodStart]
  · have hor : s.phase ≠ 0 ∨ s.stopPending = true := by
      cases hp : s.stopPending
      · exact .inl fun h0 => h ⟨h0, hp⟩
      · exact .inr rfl
    by_cases hd : s.stopPending = true ∧ (s.serviceFalls s.phase).fq = []
    · refine .inr (.inr (.inr ⟨rfl, hd.1, hd.2, ?_⟩))
      have hd2 := hd.2
      simp only [State.serviceFalls_fq] at hd2
      simp [State.tick, hs, State.finishTick, hd.1, hd2]
    · refine .inr (.inr (.inl ⟨rfl, hor, hd, ?_⟩))
      have : (s.stopPending && (serviceLoop s.phase s.fq s.pinOut).1.isEmpty) = false := by
        rw [Bool.and_eq_false_iff]
        by_cases h1 : s.stopPending = true
        · exact .inr (by simpa [State.serviceFalls] using fun h2 => hd ⟨h1, h2⟩)
        · exact .inl (by simpa using h1)
      simp [State.tick, hs, h, State.finishTick, this]

theorem State.phase_eq (s : State) : s.phase = s.wrap.toNat * 65536 + s.cnt.toNat := rfl

/-- Fall service cannot fire on the PeriodStart tick: every fall that EmitEdges queues has a time above 0 (R158). -/
theorem State.emitEdges_serviceFalls_zero (s : State) : s.emitEdges.serviceFalls 0 = s.emitEdges := by
  unfold State.serviceFalls
  rw [serviceLoop_of_not_due]
  intro e he
  obtain h | ⟨i, -, hi, rfl⟩ := (emit_foldl_mem s.chan s.servos (s.pinOut, []) e).mp he
  · cases h
  · exact fun h0 => hi (BitVec.eq_of_toNat_eq h0)

/-- Below the counter's overflow, the timeline's advance adds one to `cnt`. -/
theorem State.advanceTimeline_of_no_overflow {s : State} (h : s.cnt.toNat ≠ 65535) :
    s.advanceTimeline.cnt = s.cnt + 1 ∧ s.advanceTimeline.wrap = s.wrap := by
  simp [State.advanceTimeline, Config.cntBits, h]

/-- On a counter overflow that does not end the period, `wrap` counts it. -/
theorem State.advanceTimeline_of_overflow {s : State} (h : s.cnt.toNat = 65535) (hw : s.wrap.toNat ≠ 6) :
    s.advanceTimeline.cnt = 0 ∧ s.advanceTimeline.wrap = s.wrap + 1 := by
  simp [State.advanceTimeline, Config.cntBits, Config.wraps, h, hw]

/-- The seventh overflow ends the period. -/
theorem State.advanceTimeline_of_last_overflow {s : State} (h : s.cnt.toNat = 65535) (hw : s.wrap.toNat = 6) :
    s.advanceTimeline.cnt = 0 ∧ s.advanceTimeline.wrap = 0 := by
  simp [State.advanceTimeline, Config.cntBits, Config.wraps, h, hw]

end Sys2Proof.Machine
end

