-- ==== Sys2Proof/Tests/Slice0.lean ====
section
/-! SUPPORT. Tests on fixed values, their expected results taken from the tables and programs of 95_test_vectors.md or
the examples inside the rules, and for every statement a state that meets its hypotheses. -/

namespace Sys2Proof.Tests

open Sys2Proof Sys2Proof.Machine

/-! ## Small states -/

/-- A table with two channels. -/
def table2 (a b : Channel) : Table := ⟨a, b, .zero, .zero, .zero, .zero⟩

/-- Program P1's and P2's list [0, 1], started, at phase 0, with channel 0 as given. -/
def duo (target position speed : Half) (moving : Bool) : State :=
  { State.reset with
    table := table2 ⟨0, target, position, speed⟩ ⟨1, 0, 0, 0⟩, count := 2, started := true, moving := moving,
    pinOe := 0b000011 }

/-- Program P4's table: pins 5 and 2, pulses of 36000 and 60000 ticks. -/
def table4 : Table := table2 ⟨5, 36000, 36000, 0⟩ ⟨2, 60000, 60000, 0⟩

/-- Program P4 with both pulses in flight, at `phase = p`. -/
def flying (p : Half) (pending : Bool) : State :=
  { State.reset with
    table := table4, count := 2, started := true, stopPending := pending, cnt := p,
    fq := [⟨36000, 5⟩, ⟨60000, 2⟩], pinOut := 0b100100, pinOe := 0b100100 }

/-- Program P4 after its STOP. -/
def paused : State := { State.reset with table := table4, count := 2, cnt := 60000, pinOe := 0b100100 }

/-- Program P3's table, at a PeriodStart. -/
def quad : State :=
  { State.reset with
    table := ⟨⟨3, 36000, 36000, 0⟩, ⟨1, 24000, 24000, 0⟩, ⟨4, 36000, 36000, 0⟩, ⟨0, 0, 0, 0⟩, .zero, .zero⟩
    count := 4, started := true, pinOe := 0b011011 }

/-- Six channels, as START.LIST [5, 4, 3, 2, 1, 0] lists them. -/
def six : State :=
  { State.reset with
    table := ⟨⟨5, 1, 1, 0⟩, ⟨4, 1, 1, 0⟩, ⟨3, 1, 1, 0⟩, ⟨2, 1, 1, 0⟩, ⟨1, 1, 1, 0⟩, ⟨0, 1, 1, 0⟩⟩
    count := 6, started := true, pinOe := 0b111111 }

/-- The state of a next outcome. -/
def ran : Result → Option State
  | .next t => some t
  | _ => none

theorem next_of_ran {r : Result} {t : State} (h : ran r = some t) : r = .next t := by
  cases r <;> simp_all [ran]

/-- The state of a next outcome, or the state given. -/
def after (r : Result) (d : State) : State := (ran r).getD d

/-- The response `(rsp_err, rsp_data)` of the command word `w`, run from `s` by the model's own step. -/
def answer (s : State) (w : Nat) : Option (BitVec 3) × Option Half :=
  let t := after (step (s.withFetchWord 32 w)) s
  (t.rspErr, t.rspData)

/-! ## Well-formedness: one ill-formed term for each check -/

theorem test_wellFormed_accepts : WellFormed (.startList 6 5 4 3 2 1 0) ∧ WellFormed (.setTarget 5 65535) := by decide
theorem test_countLegal_refuses_0 : ¬WellFormed (.startList 0 0 0 0 0 0 0) := by decide
theorem test_countLegal_refuses_7 : ¬WellFormed (.startList 7 0 1 2 3 4 5) := by decide
theorem test_unusedSlotsZero_refuses : ¬WellFormed (.startList 1 2 3 0 0 0 0) := by decide
theorem test_listedPinsEligible_refuses : ¬WellFormed (.startList 2 1 6 0 0 0 0) := by decide
theorem test_listedPinsDistinct_refuses : ¬WellFormed (.startList 2 1 1 0 0 0 0) := by decide
theorem test_servoEncodable_refuses : ¬WellFormed (.getSpeed 6) ∧ ¬WellFormed (.setTargetHr 7 0) := by decide

/-! ## Decoding: words of 95_test_vectors.md 2.1 -/

theorem test_decode_startList : decode 0x101814E5 = .ok (.startList 6 5 4 3 2 1 0) := by decide
theorem test_decode_startKeep : decode 0x10200000 = .ok .startKeep := by decide
theorem test_decode_format_N :
    decode 0x20000000 = .ok .stop ∧ decode 0x30000000 = .ok .isStarted ∧ decode 0x40000000 = .ok .isMoving := by decide
theorem test_decode_setters :
    decode 0x500009C4 = .ok (.setTarget 0 2500) ∧ decode 0x7000FFFF = .ok (.setSpeed 0 65535) ∧
      decode 0xA0028CA0 = .ok (.setTargetHr 2 36000) := by decide
theorem test_decode_getters :
    decode 0x60000000 = .ok (.getTarget 0) ∧ decode 0x80010000 = .ok (.getSpeed 1) ∧
      decode 0x90010000 = .ok (.getPosition 1) ∧ decode 0xB0000000 = .ok (.getTargetHr 0) ∧
      decode 0xC0050000 = .ok (.getPositionHr 5) := by decide
theorem test_decodeTableWord :
    decodeTableWord 32 0x1010010B = some (.startList 4 3 1 4 0 0 0) ∧ decodeTableWord 32 0xD0000000 = none := by decide

/-- The decoding table of 2.1, run from `count = 2`: the refused words and their codes. -/
theorem test_refused_opcodes :
    [0x00000000, 0xFFFFFFFF, 0xD0000000, 0xD8000000].map (answer (duo 0 0 0 false)) =
      List.replicate 4 (some 1, some 0) := by decide
theorem test_refused_reserved :
    [0x18000000, 0x10600000, 0x10200001, 0x10240000, 0x1004001A, 0x1004003F, 0x20000001, 0x30000001, 0x40800000,
      0x50080000, 0x60000005, 0x60070001].map (answer (duo 0 0 0 false)) =
      List.replicate 12 (some 2, some 0) := by decide
theorem test_refused_lists :
    [0x10000000, 0x10000007, 0x101C0000, 0x10080031, 0x10080036, 0x10080009].map (answer (duo 0 0 0 false)) =
      [(some 3, some 0), (some 3, some 0), (some 3, some 0), (some 4, some 0), (some 4, some 0), (some 5, some 0)] := by
  decide
theorem test_refused_numbers :
    [0x50070000, 0x90020000, 0x90010000].map (answer (duo 0 0 0 false)) =
      [(some 6, some 0), (some 6, some 0), (some 0, some 0)] := by decide

/-! ## Commands: 95_test_vectors.md 2.2, 2.3, Part 3 -/

/-- R111's example. -/
theorem test_startList_from_reset :
    exec (.startList 2 0 1 0 0 0 0) .reset = .next { duo 0 0 0 false with rsp := some ⟨none, 0⟩ } := next_of_ran (by decide)
/-- P5: the list is replaced under a pulse in flight. -/
theorem test_startList_in_flight :
    (after (exec (.startList 2 0 4 0 0 0 0) (flying 101 false)) .reset) =
      { flying 101 false with
        table := table2 ⟨0, 0, 0, 0⟩ ⟨4, 0, 0, 0⟩, pinOe := 0b110101, rsp := some ⟨none, 0⟩ } := by decide
/-- P4's resume. -/
theorem test_startKeep_resumes :
    exec .startKeep paused = .next { paused with started := true, cnt := 0, rsp := some ⟨none, 0⟩ } := next_of_ran (by decide)
theorem test_startKeep_started : (exec .startKeep (flying 12345 false)) =
    .next { flying 12345 false with rsp := some ⟨none, 0⟩ } := next_of_ran (by decide)
/-- P4's STOP waits. -/
theorem test_stop_waits : exec .stop (flying 10001 false) = .next (flying 10001 true) := next_of_ran (by decide)
/-- 2.2: STOP on the edge of a PeriodStart completes at once. -/
theorem test_stop_at_periodStart :
    exec .stop (duo 50000 50000 0 false) =
      .next { duo 50000 50000 0 false with started := false, rsp := some ⟨none, 0⟩ } := next_of_ran (by decide)
theorem test_isStarted : answer .reset 0x30000000 = (some 0, some 0) ∧
    answer (duo 0 0 0 false) 0x30000000 = (some 0, some 1) := by decide
theorem test_isMoving : answer (duo 24000 24000 0 false) 0x40000000 = (some 0, some 0) ∧
    answer (duo 48000 24000 200 true) 0x40000000 = (some 0, some 1) := by decide
/-- 2.3: clamp and conversion. -/
theorem test_setTarget_clamps :
    ([0, 1, 1000, 2500, 2501, 65535].map fun v : Half => (after (exec (.setTarget 0 v) (duo 0 0 0 false)) .reset).chan 0) =
      [⟨0, 0, 0, 0⟩, ⟨0, 24, 24, 0⟩, ⟨0, 24000, 24000, 0⟩, ⟨0, 60000, 60000, 0⟩, ⟨0, 60000, 60000, 0⟩,
        ⟨0, 60000, 60000, 0⟩] := by decide
/-- 2.3: no fast path, and `moving`. -/
theorem test_setTarget_no_fast_path :
    exec (.setTarget 0 2000) (duo 24000 24000 200 false) =
      .next { duo 48000 24000 200 true with rsp := some ⟨none, 0⟩ } := next_of_ran (by decide)
theorem test_setTargetHr_clamps :
    ([60000, 60001, 65535].map fun v : Half => (after (exec (.setTargetHr 0 v) (duo 0 0 0 false)) .reset).chan 0) =
      List.replicate 3 ⟨0, 60000, 60000, 0⟩ := by decide
/-- 2.3: target 0 takes the fast path and does not clear `moving`. -/
theorem test_setTargetHr_zero :
    exec (.setTargetHr 0 0) (duo 30100 24000 200 true) = .next { duo 0 0 200 true with rsp := some ⟨none, 0⟩ } := next_of_ran (by decide)
theorem test_setSpeed :
    exec (.setSpeed 0 0) (duo 30100 30001 7000 true) =
      .next { duo 30100 30001 0 true with rsp := some ⟨none, 0⟩ } := next_of_ran (by decide)
/-- 2.3: ticks to µs, rounded down. -/
theorem test_getTarget : answer (duo 30001 0 0 false) 0x60000000 = (some 0, some 1250) := by decide
theorem test_getPosition :
    answer (duo 0 24400 0 false) 0x90000000 = (some 0, some 1016) ∧
      answer (duo 0 59999 0 false) 0x90000000 = (some 0, some 2499) := by decide
theorem test_getSpeed : answer (duo 0 0 65535 false) 0x80000000 = (some 0, some 65535) ∧
    answer .reset 0x80000000 = (some 6, some 0) := by decide
theorem test_getTargetHr : answer (duo 24000 1 2 false) 0xB0000000 = (some 0, some 24000) := by decide
theorem test_getPositionHr : answer (duo 1 24400 2 false) 0xC0000000 = (some 0, some 24400) := by decide

/-! ## The tick step: 95_test_vectors.md 2.4 -/

/-- The rows of the interpolation table. -/
theorem test_interpolate_rows :
    ([(24000, 48000, 200), (47900, 48000, 200), (48000, 48000, 200), (50000, 30001, 7000), (36000, 30001, 7000),
      (37001, 30001, 7000), (60000, 1, 65535), (1, 60000, 65535), (30001, 30100, 0)].map
      fun r : Half × Half × Half =>
        let t := (duo r.2.1 r.1 r.2.2 false).interpolate
        ((t.chan 0).position, t.moving)) =
      [(24200, true), (48000, true), (48000, false), (43000, true), (30001, true), (30001, true), (1, true),
        (60000, true), (30001, true)] := by decide
/-- P3's queue. -/
theorem test_emitEdges :
    quad.emitEdges = { quad with
      fq := [⟨24000, 1⟩, ⟨36000, 3⟩, ⟨36000, 4⟩], pinOut := 0b011010 } := by decide
theorem test_serviceFalls :
    (quad.emitEdges.serviceFalls 23999) = quad.emitEdges ∧
      (quad.emitEdges.serviceFalls 24000) = { quad with fq := [⟨36000, 3⟩, ⟨36000, 4⟩], pinOut := 0b011000 } ∧
      ((quad.emitEdges.serviceFalls 24000).serviceFalls 36000) = quad := by decide
/-- The six-way tie: all rise in one tick and fall in the next. -/
theorem test_six_way_tie :
    six.tick = { six with
      cnt := 1, pinOut := 0b111111, fq := [⟨1, 5⟩, ⟨1, 4⟩, ⟨1, 3⟩, ⟨1, 2⟩, ⟨1, 1⟩, ⟨1, 0⟩] } ∧
    six.tick.tick = { six with cnt := 2 } := by decide
/-- The rows of the timeline table. -/
theorem test_advanceTimeline :
    ([(0, 0), (0, 65535), (3, 65535), (6, 65534), (6, 65535)].map fun r : Index × Half =>
      let t := ({ State.reset with wrap := r.1, cnt := r.2 }).advanceTimeline
      (t.wrap, t.cnt)) = [(0, 1), (1, 0), (4, 0), (6, 65535), (0, 0)] := by decide
/-- P4's last fall ends the STOP and the timeline holds. -/
theorem test_drain_ends :
    ({ flying 60000 true with fq := [⟨60000, 2⟩], pinOut := 0b000100 }).tick =
      { paused with rsp := some ⟨none, 0⟩ } := by decide
/-- R114, corner case 2: the accepting edge's tick then does nothing. -/
theorem test_edge_stop_at_periodStart :
    step { duo 50000 50000 0 false with hostInputs := [.edge false true 0x20000000] } =
      .next { duo 50000 50000 0 false with started := false, rsp := some ⟨none, 0⟩ } := next_of_ran (by decide)
/-- R212: reset in the middle of a drain, over a command presented. -/
theorem test_edge_reset :
    step { flying 40000 true with viol := true, hostInputs := [.edge true true 0x30000000] } = .next .reset := next_of_ran (by decide)

/-! ## Witnesses: a state and operands meeting the hypotheses of each statement -/

theorem test_inv_reset : State.reset.Inv := by constructor <;> decide
theorem test_inv_ramp : (duo 48000 24000 200 true).Inv := by constructor <;> decide
theorem test_inv_flying : (flying 10001 false).Inv := by constructor <;> decide
theorem test_inv_flying_due : (flying 36000 false).Inv := by constructor <;> decide
theorem test_inv_paused : paused.Inv := by constructor <;> decide
theorem test_inv_quad : quad.Inv := by constructor <;> decide

theorem test_witness_DecodedWordIsItsEncoding : decode 0x10080015 = .ok (.startList 2 5 2 0 0 0 0) := by decide

theorem test_witness_OpcodeTableSelectsTheCommand :
    Spec.Matches 0x101C0000 (.startList 0 0 0 0 0 0 0) ∧ decode 0x60070000 = .ok (.getTarget 7) ∧
      (∀ i, ¬Spec.Matches 0xD8000000 i) ∧ ∀ i, ¬Spec.Matches 0x60000005 i := by
  refine ⟨by simp [Spec.Matches, Instr.tableRow], by decide, ?_, ?_⟩ <;> intro i h <;> cases i <;>
    exact absurd h (by simp only [Spec.Matches, Instr.tableRow]; decide)

theorem test_witness_CommandStepFollowsDecodingProcedure :
    six.stopPending = false ∧ six.count.toNat ≤ 6 ∧
      Spec.decodeProcedure 0xD8000000 6 = .error .eOpcode ∧ Spec.decodeProcedure 0x1004003F 6 = .error .eReserved ∧
      Spec.decodeProcedure 0x101C0000 6 = .error .eCount ∧ Spec.decodeProcedure 0x10080036 6 = .error .ePin ∧
      Spec.decodeProcedure 0x10080009 6 = .error .eDup ∧ Spec.decodeProcedure 0x50060000 6 = .error .eNum ∧
      Spec.decodeProcedure 0xC0050000 6 = .ok (.getPositionHr 5) := by decide

theorem test_witness_IllFormedCommandsAreRefused :
    ¬WellFormed (.startList 0 0 0 0 0 0 0) ∧ ¬WellFormed (.setSpeed 6 0) := by decide

theorem test_witness_StepRunsTheDecodedCommand :
    (six.withFetchWord 32 0x20000000).hostInputs = [.command 0x20000000] ∧
      (six.withFetchWord 32 0x20000000).stopPending = false ∧ decode 0x20000000 = .ok .stop := by decide

theorem test_witness_EdgeRunsResetOrCommandThenTick :
    ({ flying 9 false with hostInputs := [.edge true true 0] } : State).hostInputs = [.edge true true 0] ∧
      ({ flying 9 false with hostInputs := [.edge false true 0x30000000] } : State).hostInputs =
        [.edge false true 0x30000000] ∧ (flying 9 false).stopPending = false ∧
      decode 0x30000000 = .ok .isStarted ∧ decode 0xD0000000 = .error .eOpcode ∧ (flying 9 true).stopPending = true ∧
      ({ flying 9 true with hostInputs := [.edge false true 0] } : State).hostInputs = [.edge false true 0] ∧
      ran (exec .isStarted (flying 9 false)) = some { flying 9 false with rsp := some ⟨none, 1⟩ } := by decide

theorem test_witness_PendingStopBlocksThePort :
    ({ flying 10001 true with hostInputs := [.edge false true 0x30000000] } : State).stopPending = true ∧
      ({ flying 10001 true with hostInputs := [.command 0x30000000] } : State).stopPending = true ∧
      ({ flying 10001 true with hostInputs := [.command 0x30000000] } : State).hostInputs = [.command 0x30000000] := by
  decide

theorem test_witness_ResetEdgeZeroesTheBlock :
    ({ flying 10001 true with hostInputs := [.edge true true 0x30000000] } : State).hostInputs =
      [.edge true true 0x30000000] := by decide

theorem test_witness_ViolationFlagIsSticky :
    Spec.NoReset { six with hostInputs := [.edge false true 0xD0000000] } ∧
      (∃ t, step { six with hostInputs := [.edge false true 0xD0000000] } = .next t ∧ t.viol = true ∧
        t.rsp = some ⟨some .eOpcode, 0⟩) ∧
      ¬Spec.NoReset { six with viol := true, hostInputs := [.edge true false 0] } := by
  refine ⟨by simp [Spec.NoReset], ⟨_, rfl, by decide, by decide⟩, fun h => h false 0 [] rfl⟩

theorem test_witness_OutputPortsShowTheState : ∃ e rest, (flying 10001 false).fq = e :: rest := ⟨_, _, rfl⟩

/-- One word for each clause, at the ends of the count and of the PinIds. -/
theorem test_witness_StartListRefusesBadLists :
    answer .reset 0x10000000 = (some 3, some 0) ∧ answer .reset 0x101C0000 = (some 3, some 0) ∧
      answer .reset 0x1004001A = (some 2, some 0) ∧ answer .reset 0x10040006 = (some 4, some 0) ∧
      answer .reset 0x101A0000 = (some 5, some 0) := by decide

theorem test_witness_StartListReplacesTheTable :
    Spec.ListValid 1 ![4, 0, 0, 0, 0, 0] ∧ Spec.ListValid 6 ![5, 4, 3, 2, 1, 0] ∧ State.reset.started = false ∧
      six.started = true := by
  refine ⟨⟨by decide, by decide, by decide, by decide⟩, ⟨by decide, by decide, by decide, by decide⟩, rfl, rfl⟩

theorem test_witness_StartKeepEnablesTheTimer : paused.started = false ∧ six.started = true := by decide

theorem test_witness_StopAnswersCompletesOrWaits :
    paused.started = false ∧ (six.started = true ∧ six.fq = []) ∧
      ((flying 10001 false).started = true ∧ (flying 10001 false).fq ≠ []) := by decide

theorem test_witness_NotMovingMeansArrived :
    quad.Inv ∧ (∃ t, exec .isMoving quad = .next t ∧ t.rsp = some ⟨none, 0⟩) ∧ quad.count = 4 :=
  ⟨test_inv_quad, ⟨_, rfl, by decide⟩, rfl⟩

theorem test_witness_BadServoNumberIsRefused :
    Spec.NumIllegal .reset 0 ∧ Spec.NumIllegal quad 4 ∧ Spec.NumIllegal { quad with count := 7 } 6 := by
  refine ⟨.inl (by decide), .inl (by decide), .inr (by decide)⟩

/-- The hypothesis of SetTargetWritesClampedMicroseconds, SetTargetHrWritesClampedTicks, SetSpeedWritesOnlySpeed and
GetCommandsAnswerTheirField, at the first and the last servo number; their other clause's is the one above. -/
theorem test_witness_Names : Spec.Names (duo 0 0 0 false) 0 0 ∧ Spec.Names six 5 5 := by
  refine ⟨⟨by decide, by decide⟩, ⟨by decide, by decide⟩⟩

theorem test_witness_TargetRoundTripsThroughTicks :
    Spec.Names (duo 48000 24000 200 true) 0 0 ∧ ∃ u, exec (.setTargetHr 0 65535) (duo 48000 24000 200 true) = .next u := by
  refine ⟨⟨by decide, by decide⟩, ⟨_, rfl⟩⟩

/-- Each clause's own condition: a list, a target, a fast-path position, a speed, a stop, a refusal. -/
theorem test_witness_CommandsWriteOnlyTheirState :
    (after (exec (.startList 1 4 0 0 0 0 0) .reset) .reset).count ≠ State.reset.count ∧
      ((after (exec (.setTarget 0 9) six) .reset).chan 0).target ≠ (six.chan 0).target ∧
      ((after (exec (.setTarget 0 9) six) .reset).chan 0).position ≠ (six.chan 0).position ∧
      ((after (exec (.setSpeed 0 9) six) .reset).chan 0).speed ≠ (six.chan 0).speed ∧
      (after (exec (.setTarget 0 9) (duo 48000 24000 200 false)) .reset).moving = true ∧
      (after (exec .startKeep paused) .reset).started ≠ paused.started ∧
      (after (exec .startKeep paused) .reset).cnt ≠ paused.cnt ∧
      (after (exec .stop (flying 9 false)) .reset).stopPending = true ∧
      (after (exec (.getSpeed 0) .reset) .reset).viol = true := by decide

theorem test_witness_StoppedTickChangesNothing : paused.started = false := by decide

theorem test_witness_InterpolateMovesTowardTargets :
    (0 : Fin 6).val < (duo 48000 24000 200 true).count.toNat ∧ (duo 48000 24000 200 true).count.toNat ≤ (2 : Fin 6).val := by
  decide

theorem test_witness_RampConvergesWithoutOvershoot :
    (0 : Fin 6).val < (duo 48000 24000 200 true).count.toNat ∧ 0 < ((duo 48000 24000 200 true).chan 0).speed.toNat ∧
      ((duo 48000 24000 200 true).chan 0).position.toNat ≤ ((duo 48000 24000 200 true).chan 0).target.toNat ∧
      0 < ((duo 30001 50000 7000 true).chan 0).speed.toNat ∧
      ((duo 30001 50000 7000 true).chan 0).target.toNat ≤ ((duo 30001 50000 7000 true).chan 0).position.toNat := by decide

theorem test_witness_FrozenChannelKeepsMoving :
    (0 : Fin 6).val < (duo 30100 30001 0 true).count.toNat ∧ ((duo 30100 30001 0 true).chan 0).speed = 0 ∧
      ((duo 30100 30001 0 true).chan 0).position ≠ ((duo 30100 30001 0 true).chan 0).target := by decide

theorem test_witness_MovingClearsOnePassAfterArrival :
    (Spec.SomeDiffers (duo 48000 47800 200 true) ∧ ¬Spec.SomeDiffers (duo 48000 47800 200 true).interpolate) ∧
      (exec (.setTargetHr 0 30100) (duo 30100 30001 0 true) =
        .next { duo 30100 30100 0 true with rsp := some ⟨none, 0⟩ } ∧
        ¬Spec.SomeDiffers { duo 30100 30100 0 true with rsp := some ⟨none, 0⟩ }) := by
  refine ⟨⟨?_, ?_⟩, next_of_ran (by decide), ?_⟩ <;> unfold Spec.SomeDiffers <;> decide

theorem test_witness_TimelineAdvancesModuloPeriod : ({ six with wrap := 6, cnt := 65535 } : State).wrap.toNat ≤ 6 := by
  decide

theorem test_witness_IdleTickMovesOnlyTheTimeline :
    ({ six with cnt := 2 } : State).stopPending = false ∧ ({ six with cnt := 2 } : State).fq = [] ∧
      ({ six with cnt := 2 } : State).phase ≠ 0 ∧ ({ six with cnt := 2 } : State).wrap.toNat ≤ 6 ∧
      paused.stopPending = false ∧ paused.fq = [] ∧ paused.phase ≠ 0 ∧ paused.wrap.toNat ≤ 6 := by decide

theorem test_witness_LastFallCompletesPendingStop :
    ∃ s : State, s.started = true ∧ s.stopPending = true ∧ s.fq ≠ [] ∧ ∀ e ∈ s.fq, e.t.toNat = s.phase :=
  ⟨{ flying 60000 true with fq := [⟨60000, 2⟩], pinOut := 0b000100 }, by decide, by decide, by decide, by decide⟩

/-- A pass with a difference, a drain that ends, the last overflow of a period, a load, a fall, and a configured pin
lowered by the end of a drain. -/
theorem test_witness_TickWritesOnlyItsState :
    ((duo 48000 24000 200 true).tick.chan 0).position ≠ ((duo 48000 24000 200 true).chan 0).position ∧
      ({ flying 60000 true with fq := [⟨60000, 2⟩] } : State).tick.started = false ∧
      ({ six with wrap := 6, cnt := 65535 } : State).tick.started = true ∧
      ({ six with wrap := 6, cnt := 65535 } : State).wrap.toNat ≤ 6 ∧ paused.started = false ∧
      (quad.started = true ∧ quad.phase = 0 ∧ quad.stopPending = false) ∧
      ((flying 36000 false).started = true ∧ (flying 36000 false).phase ≠ 0 ∧ (flying 36000 false).pinHigh 5 = true ∧
        (flying 36000 false).tick.pinHigh 5 = false) ∧
      ({ flying 60000 true with fq := [], pinOut := 0b000100 } : State).pinHigh 2 = true ∧
      ({ flying 60000 true with fq := [], pinOut := 0b000100 } : State).tick.pinHigh 2 = false := by decide

theorem test_witness_EveryStepKeepsTheInvariants :
    (flying 36000 false).Inv ∧ step (flying 36000 false) =
      .next { flying 36001 false with fq := [⟨60000, 2⟩], pinOut := 0b000100 } :=
  ⟨test_inv_flying_due, next_of_ran (by decide)⟩

/-- A pulse that goes on and a pulse that falls on this edge. -/
theorem test_witness_PulseInFlightFallsOnlyAtItsTime :
    ((flying 10001 false).Inv ∧ Spec.NoReset (flying 10001 false) ∧ (⟨36000, 5⟩ : FallEvent) ∈ (flying 10001 false).fq ∧
      step (flying 10001 false) = .next (flying 10002 false)) ∧
    ((flying 36000 false).Inv ∧ Spec.NoReset (flying 36000 false) ∧ Spec.IsEdge (flying 36000 false) ∧
      (flying 36000 false).phase = 36000) :=
  ⟨⟨test_inv_flying, by simp [Spec.NoReset, flying, State.reset], by decide, next_of_ran (by decide)⟩, test_inv_flying_due,
    by simp [Spec.NoReset, flying, State.reset], by simp [Spec.IsEdge, flying, State.reset], by decide⟩

theorem test_witness_PinsRiseOnlyAtPeriodStart :
    quad.Inv ∧ (∃ t, step quad = .next t ∧ t.pinHigh 3 = true) ∧ quad.pinHigh 3 = false :=
  ⟨test_inv_quad, ⟨_, rfl, by decide⟩, by decide⟩

/-- Commands presented on two edges while both pulses are in flight. -/
theorem test_witness_PulseInFlightIsWholeUnderAnyCommands :
    ({ flying 10001 false with hostInputs := [.edge false true 0x50000000, .edge false true 0x10080020] } : State).Inv ∧
      ({ flying 10001 false with hostInputs := [.edge false true 0x50000000, .edge false true 0x10080020] } :
        State).PlainEdges := by
  refine ⟨by constructor <;> decide, ?_⟩
  simp [State.PlainEdges]

/-- Of PulseIsExactlyPositionTicksWide and OnePeriodInterpolatesOnce, at the last edge of the period. -/
theorem test_witness_periods :
    (duo 48000 24000 200 true).Inv ∧ (duo 48000 24000 200 true).started = true ∧ (duo 48000 24000 200 true).phase = 0 ∧
      (duo 48000 24000 200 true).hostInputs = [] ∧ (0 : Fin 6).val < (duo 48000 24000 200 true).count.toNat ∧
      458751 < 458752 :=
  ⟨test_inv_ramp, by decide, by decide, by decide, by decide, by decide⟩

/-- A STOP with pulses in flight, and one accepted on the very edge of the last fall. -/
theorem test_witness_StopCompletesWhenTheLastPulseEnds :
    (∃ s : State, s.Inv ∧ s.PlainEdges ∧ s.stopPending = false ∧ s.hostInputs = [.edge false true 0x20000000] ∧
      s.fq.getLast? = some ⟨60000, 2⟩ ∧ s.phase = 1) ∧
    ∃ s : State, s.Inv ∧ s.PlainEdges ∧ s.stopPending = false ∧ s.hostInputs = [.edge false true 0x20000000] ∧
      s.fq.getLast? = some ⟨60000, 2⟩ ∧ s.phase = 60000 := by
  refine ⟨⟨{ flying 1 false with hostInputs := [.edge false true 0x20000000] }, by constructor <;> decide, ?_, by decide,
    by decide, by decide, by decide⟩, ⟨{ flying 60000 false with
      fq := [⟨60000, 2⟩], pinOut := 0b000100, hostInputs := [.edge false true 0x20000000] },
    by constructor <;> decide, ?_, by decide, by decide, by decide, by decide⟩⟩ <;> simp [State.PlainEdges]

theorem test_witness_ResumeStartsAPeriodAtOnce :
    ({ paused with hostInputs := [.edge false true 0x10200000] } : State).Inv ∧
      ({ paused with hostInputs := [.edge false true 0x10200000] } : State).started = false ∧
      step { paused with hostInputs := [.edge false true 0x10200000] } =
        .next { flying 1 false with rsp := some ⟨none, 0⟩ } :=
  ⟨by constructor <;> decide, by decide, next_of_ran (by decide)⟩

end Sys2Proof.Tests
end

/-! ## Proofs: what a command and a step can do, said once (R61 to R64, R92, R181) -/

namespace Sys2Proof.Machine

theorem half_toNat_pos {x : Half} (hx : x ≠ 0) : 0 < x.toNat :=
  Nat.pos_of_ne_zero fun h0 => hx (BitVec.eq_of_toNat_eq h0)

theorem ticksOfUs_le (us : Half) : (ticksOfUs us).toNat ≤ 60000 :=
  (Nat.mod_le _ _).trans (Nat.mul_le_mul_right 24 (Nat.min_le_right us.toNat 2500))

theorem ticksOfHr_le (ticks : Half) : (ticksOfHr ticks).toNat ≤ 60000 :=
  (Nat.mod_le _ _).trans (Nat.min_le_right ticks.toNat 60000)

/-- What an accepted command can make of the state: every way `acceptCommand` goes, with the condition it goes under. -/
inductive State.CommandEffect (s : State) : State → Prop where
  /-- A word the decoder or the command's own checks refuse (R181). -/
  | refused (v : Violation) : CommandEffect s (s.raiseViolation v)
  /-- A getter, a status command, or STOP on a stopped block (R114, R116, R117, R136 to R141). -/
  | answered (d : Half) : CommandEffect s (s.respond d)
  /-- START.LIST with a valid list (R111). -/
  | listed (n : Index) (slots : List Index) (hlen : slots.length = 6) (hvalid : startListViolation n slots = none) :
      CommandEffect s ((s.configure n slots).enableTimer.respond 0)
  /-- START.KEEP (R112). -/
  | enabled : CommandEffect s (s.enableTimer.respond 0)
  /-- STOP with no pulse in flight (R114). -/
  | stopped (hs : s.started = true) (hq : s.fq = []) : CommandEffect s s.completeStop
  /-- STOP with a pulse in flight (R114). -/
  | stopWaits (hs : s.started = true) (hq : s.fq ≠ []) : CommandEffect s { s with stopPending := true }
  /-- SET_TARGET or SET_TARGET_HR, the target in ticks (R134, R135). -/
  | targetSet (i : Fin 6) (tt : Half) (hi : s.Configured i) (htt : tt.toNat ≤ 60000) :
      CommandEffect s (s.setTarget i tt)
  /-- SET_SPEED (R138). -/
  | speedSet (i : Fin 6) (v : Half) (hi : s.Configured i) :
      CommandEffect s ((s.setChan i { s.chan i with speed := v }).respond 0)

theorem State.CommandEffect.of_withChannel {s : State} (num : Index) {k : Fin 6 → State}
    (hk : ∀ i, s.Configured i → s.CommandEffect (k i)) : s.CommandEffect (s.withChannel num k) := by
  obtain ⟨-, h⟩ | ⟨i, -, hi, h⟩ := s.withChannel_cases num k
  · exact h ▸ .refused .eNum
  · exact h ▸ hk i hi

theorem exec_commandEffect (i : Instr) (s : State) : ∃ t, exec i s = .next t ∧ s.CommandEffect t := by
  cases i with
  | startList n p0 p1 p2 p3 p4 p5 =>
    obtain ⟨v, -, h⟩ | ⟨hvalid, h⟩ := execStartList_cases n p0 p1 p2 p3 p4 p5 s
    · exact ⟨_, h, .refused v⟩
    · exact ⟨_, h, .listed n _ rfl hvalid⟩
  | startKeep => exact ⟨_, rfl, .enabled⟩
  | stop =>
    obtain ⟨-, h⟩ | ⟨hs, hq, h⟩ | ⟨hs, hq, h⟩ := execStop_cases s
    · exact ⟨_, h, .answered 0⟩
    · exact ⟨_, h, .stopped hs hq⟩
    · exact ⟨_, h, .stopWaits hs hq⟩
  | isStarted => exact ⟨_, rfl, .answered _⟩
  | isMoving => exact ⟨_, rfl, .answered _⟩
  | setTarget num val => exact ⟨_, rfl, .of_withChannel num fun i hi => .targetSet i _ hi (ticksOfUs_le val)⟩
  | getTarget num => exact ⟨_, rfl, .of_withChannel num fun _ _ => .answered _⟩
  | setSpeed num val => exact ⟨_, rfl, .of_withChannel num fun i hi => .speedSet i val hi⟩
  | getSpeed num => exact ⟨_, rfl, .of_withChannel num fun _ _ => .answered _⟩
  | getPosition num => exact ⟨_, rfl, .of_withChannel num fun _ _ => .answered _⟩
  | setTargetHr num val => exact ⟨_, rfl, .of_withChannel num fun i hi => .targetSet i _ hi (ticksOfHr_le val)⟩
  | getTargetHr num => exact ⟨_, rfl, .of_withChannel num fun _ _ => .answered _⟩
  | getPositionHr num => exact ⟨_, rfl, .of_withChannel num fun _ _ => .answered _⟩

theorem State.acceptCommand_commandEffect (s : State) (w : CmdWord) :
    ∃ t, s.acceptCommand w = .next t ∧ s.CommandEffect t := by
  unfold State.acceptCommand
  split
  · exact ⟨_, rfl, .refused _⟩
  · exact exec_commandEffect _ s

/-- What the command port makes of the state before any tick: nothing, or the effect of a command, which is accepted
only while no STOP is pending (R29). -/
inductive State.PortEffect (s : State) : State → Prop where
  | idle : PortEffect s s
  | accepted {u : State} (hready : s.stopPending = false) (hu : s.CommandEffect u) : PortEffect s u

theorem State.commandStep_portEffect (s : State) (w : CmdWord) :
    ∃ u, s.commandStep w = .next u ∧ s.PortEffect u := by
  cases hp : s.stopPending
  · obtain ⟨u, hu, he⟩ := s.acceptCommand_commandEffect w
    exact ⟨u, by simp [State.commandStep, State.cmdReady, hp, hu], .accepted hp he⟩
  · exact ⟨s, by simp [State.commandStep, State.cmdReady, hp], .idle⟩

theorem State.clockEdge_portEffect (s : State) (cmdValid : Bool) (w : CmdWord) :
    ∃ u, s.clockEdge false cmdValid w = .next u.tick ∧ s.PortEffect u := by
  cases hr : cmdValid && s.cmdReady
  · exact ⟨s, by simp [State.clockEdge, hr], .idle⟩
  · obtain ⟨u, hu, he⟩ := s.acceptCommand_commandEffect w
    have hready : s.stopPending = false := by simp_all [State.cmdReady]
    exact ⟨u, by simp [State.clockEdge, hr, hu, thenTick], .accepted hready he⟩

/-- A step is a reset edge, or what the command port does, then the tick if the step is a clock edge (R63, R64). -/
theorem step_cases {s t : State} (h : step s = .next t) :
    (∃ v w rest, s.hostInputs = .edge true v w :: rest ∧ t = { State.reset with hostInputs := rest }) ∨
    (Spec.NoReset s ∧ ∃ u, (s.beginStep (takeInput s.hostInputs).2).PortEffect u ∧
      (¬Spec.IsEdge s ∧ t = u ∨ Spec.IsEdge s ∧ t = u.tick)) := by
  unfold step at h
  have edge (v : Bool) (w : CmdWord) (hin : (takeInput s.hostInputs).1 = .edge false v w) :
      ∃ u, (s.beginStep (takeInput s.hostInputs).2).PortEffect u ∧ t = u.tick := by
    obtain ⟨u, hu, he⟩ := (s.beginStep (takeInput s.hostInputs).2).clockEdge_portEffect v w
    rw [hin] at h
    exact ⟨u, he, Host.Outcome.next.inj (h.symm.trans hu)⟩
  cases hin : s.hostInputs with
  | nil =>
    obtain ⟨u, he, ht⟩ := edge false 0 (by rw [hin]; rfl)
    exact .inr ⟨by simp [Spec.NoReset, hin], u, hin ▸ he, .inr ⟨by simp [Spec.IsEdge, hin], ht⟩⟩
  | cons x rest =>
    cases x with
    | edge rst v w =>
      cases rst with
      | true =>
        rw [hin] at h
        exact .inl ⟨v, w, rest, rfl, (Host.Outcome.next.inj h).symm⟩
      | false =>
        obtain ⟨u, he, ht⟩ := edge v w (by rw [hin]; rfl)
        exact .inr ⟨by simp [Spec.NoReset, hin], u, hin ▸ he, .inr ⟨by simp [Spec.IsEdge, hin], ht⟩⟩
    | command w =>
      obtain ⟨u, hu, he⟩ := (s.beginStep rest).commandStep_portEffect w
      rw [hin] at h
      exact .inr ⟨by simp [Spec.NoReset, hin], u, he,
        .inl ⟨by simp [Spec.IsEdge, hin], Host.Outcome.next.inj (h.symm.trans hu)⟩⟩

end Sys2Proof.Machine

/-! ## Proofs: the invariants, in the parts that operations touch (R38 to R46) -/

namespace Sys2Proof.Machine

/-- One entry of the Channel Table is in range (R46), and its position is 0 exactly when its target is (R39). -/
structure Channel.Ok (c : Channel) : Prop where
  pin_le : c.pin.toNat ≤ 5
  target_le : c.target.toNat ≤ 60000
  position_le : c.position.toNat ≤ 60000
  zero_iff : c.position = 0 ↔ c.target = 0

/-- The invariants of the table, `count` and `moving` (R38, R39, R44, R46). -/
structure TableInv (tab : Table) (count : Index) (moving : Bool) : Prop where
  count_le : count.toNat ≤ 6
  pins_distinct : ∀ i j : Fin 6, i.val < count.toNat → j.val < count.toNat →
    (tab.get i).pin = (tab.get j).pin → i = j
  ok : ∀ i, (tab.get i).Ok
  unused_zero : ∀ i : Fin 6, ¬i.val < count.toNat → tab.get i = .zero
  moving_of_differs : ∀ i : Fin 6, i.val < count.toNat → (tab.get i).position ≠ (tab.get i).target → moving = true

/-- The invariants of the fall queue and the pins (R40, R41). -/
structure QueueInv (fq : List FallEvent) (pinOut : BitVec 6) : Prop where
  sorted : fq.Pairwise fun a b => a.t.toNat ≤ b.t.toNat
  length_le : fq.length ≤ 6
  pins_nodup : (fq.map (·.pin)).Nodup
  range : ∀ e ∈ fq, 1 ≤ e.t.toNat ∧ e.t.toNat ≤ 60000 ∧ e.pin.toNat ≤ 5
  pin_high_iff : ∀ p : Fin 6, pinOut.getLsbD p.val = true ↔ ∃ e ∈ fq, e.pin.toNat = p.val

/-- How the pulses in flight bind the timer and a pending STOP (R42, R43). -/
structure FlightInv (started stopPending : Bool) (phase : Nat) (fq : List FallEvent) : Prop where
  fq_phase : ∀ e ∈ fq, started = true ∧ 1 ≤ phase ∧ phase ≤ e.t.toNat
  stop_pending : stopPending = true → started = true ∧ fq ≠ []

section Parts
variable {s : State}

theorem State.Inv.tableInv (h : s.Inv) : TableInv s.table s.count s.moving where
  count_le := h.count_le
  pins_distinct := h.pins_distinct
  ok i := by
    refine ⟨h.pin_le i, h.target_le i, h.position_le i, ?_⟩
    by_cases hi : s.Configured i
    · exact h.zero_iff i hi
    · have hz : s.table.get i = .zero := h.unused_zero i hi
      simp [hz, Channel.zero]
  unused_zero := h.unused_zero
  moving_of_differs := h.moving_of_differs

theorem State.Inv.queueInv (h : s.Inv) : QueueInv s.fq s.pinOut where
  sorted := h.fq_sorted
  length_le := h.fq_length
  pins_nodup := h.fq_pins_distinct
  range := h.fq_range
  pin_high_iff := h.pin_high_iff

theorem State.Inv.flightInv (h : s.Inv) : FlightInv s.started s.stopPending s.phase s.fq where
  fq_phase := h.fq_phase
  stop_pending := h.stop_pending

theorem QueueInv.pinOut_eq_zero {out : BitVec 6} (h : QueueInv [] out) : out = 0 := by
  apply BitVec.eq_of_getLsbD_eq
  intro q hq
  have := h.pin_high_iff ⟨q, hq⟩
  simpa using this

theorem FlightInv.fq_eq_nil_of_phase {started pending : Bool} {phase : Nat} {fq : List FallEvent}
    (h : FlightInv started pending phase fq) (h0 : phase = 0) : fq = [] :=
  List.eq_nil_iff_forall_not_mem.mpr fun e he => by
    obtain ⟨-, h1, -⟩ := h.fq_phase e he
    omega

theorem FlightInv.of_stopped {pending : Bool} {phase : Nat} {fq : List FallEvent}
    (h : FlightInv false pending phase fq) : pending = false ∧ fq = [] := by
  constructor
  · cases pending
    · rfl
    · exact absurd (h.stop_pending rfl).1 (by decide)
  · exact List.eq_nil_iff_forall_not_mem.mpr fun e he => absurd (h.fq_phase e he).1 (by decide)

theorem FlightInv.of_nil (started : Bool) (phase : Nat) : FlightInv started false phase [] :=
  ⟨by simp, by simp⟩

/-- The parts make up the invariants; R45, on a stopped block, follows from the others. -/
theorem State.Inv.of_parts (htab : TableInv s.table s.count s.moving) (hq : QueueInv s.fq s.pinOut)
    (hf : FlightInv s.started s.stopPending s.phase s.fq) (hw : s.wrap.toNat ≤ 6) : s.Inv where
  count_le := htab.count_le
  pins_distinct := htab.pins_distinct
  pin_le i := (htab.ok i).pin_le
  target_le i := (htab.ok i).target_le
  position_le i := (htab.ok i).position_le
  unused_zero := htab.unused_zero
  wrap_le := hw
  zero_iff i _ := (htab.ok i).zero_iff
  fq_sorted := hq.sorted
  fq_length := hq.length_le
  fq_pins_distinct := hq.pins_nodup
  fq_range := hq.range
  pin_high_iff := hq.pin_high_iff
  fq_phase := hf.fq_phase
  stop_pending := hf.stop_pending
  moving_of_differs := htab.moving_of_differs
  stopped hs := by
    rw [hs] at hf
    obtain ⟨hp, hnil⟩ := hf.of_stopped
    rw [hnil] at hq
    exact ⟨hp, hnil, hq.pinOut_eq_zero⟩

end Parts

/-! ### The table's part -/

section Table
variable {tab tab' : Table} {n : Index} {m m' : Bool}

/-- The table's invariants carry over to a table with the same pins and the same entries past `count`, if its entries are in
range and `moving` shows every difference. -/
theorem TableInv.of_same_pins (h : TableInv tab n m) (hpin : ∀ i, (tab'.get i).pin = (tab.get i).pin)
    (hok : ∀ i, (tab'.get i).Ok) (hunused : ∀ i : Fin 6, ¬i.val < n.toNat → tab'.get i = tab.get i)
    (hmoving : ∀ i : Fin 6, i.val < n.toNat → (tab'.get i).position ≠ (tab'.get i).target → m' = true) :
    TableInv tab' n m' where
  count_le := h.count_le
  pins_distinct i j hi hj he := h.pins_distinct i j hi hj (by simpa only [hpin] using he)
  ok := hok
  unused_zero i hi := (hunused i hi).trans (h.unused_zero i hi)
  moving_of_differs := hmoving

/-- The table's invariants after a write to one configured entry. -/
theorem TableInv.set (h : TableInv tab n m) {i : Fin 6} {c : Channel} (hi : i.val < n.toNat)
    (hpin : c.pin = (tab.get i).pin) (hok : c.Ok) (hm : m = true → m' = true)
    (hd : c.position ≠ c.target → m' = true) : TableInv (tab.set i c) n m' := by
  have key (j : Fin 6) : (j = i ∧ (tab.set i c).get j = c) ∨ (j ≠ i ∧ (tab.set i c).get j = tab.get j) := by
    by_cases hj : j = i
    · exact .inl ⟨hj, hj ▸ tab.get_set_self i c⟩
    · exact .inr ⟨hj, tab.get_set_of_ne c hj⟩
  refine h.of_same_pins (fun j => ?_) (fun j => ?_) (fun j hj => ?_) (fun j hj => ?_) <;>
    obtain ⟨rfl, hc⟩ | ⟨-, hc⟩ := key j <;> rw [hc]
  · exact hpin
  · exact hok
  · exact h.ok j
  · exact absurd hi hj
  · exact hd
  · exact fun hne => hm (h.moving_of_differs j hj hne)

theorem Channel.Ok.setTargetTicks {c : Channel} (h : c.Ok) {tt : Half} (htt : tt.toNat ≤ 60000) :
    (c.setTargetTicks tt).Ok where
  pin_le := h.pin_le
  target_le := htt
  position_le := by
    unfold Channel.setTargetTicks
    split
    · exact htt
    · exact h.position_le
  zero_iff := by
    unfold Channel.setTargetTicks
    split
    · rfl
    · rename_i hslow
      simp only [not_or] at hslow
      obtain ⟨-, hp, ht⟩ := hslow
      exact iff_of_false hp ht

theorem Channel.Ok.zero_with_pin {p : Index} (hp : p.toNat ≤ 5) : ({ Channel.zero with pin := p } : Channel).Ok :=
  ⟨hp, by simp [Channel.zero], by simp [Channel.zero], Iff.rfl⟩

theorem State.configure_chan (s : State) (n : Index) (slots : List Index) (i : Fin 6) : (s.configure n slots).chan i =
    { Channel.zero with pin := if i.val < n.toNat then slots.getD i.val 0 else 0 } := by
  simp [State.configure, State.chan]

/-- The table that a valid list configures, before any target is set, has the invariants (R111). -/
theorem State.configure_tableInv (s : State) {slots : List Index} (hlen : slots.length = 6)
    (hvalid : startListViolation n slots = none) : TableInv (s.configure n slots).table n false := by
  obtain ⟨⟨-, hn⟩, -, hle, hnodup⟩ := (startListViolation_eq_none_iff n slots).mp hvalid
  have hget (i : Fin 6) : (s.configure n slots).table.get i =
      { Channel.zero with pin := if i.val < n.toNat then slots.getD i.val 0 else 0 } := s.configure_chan n slots i
  have htake (i : Fin 6) (hi : i.val < n.toNat) :
      ∃ h : i.val < (slots.take n.toNat).length, slots.getD i.val 0 = (slots.take n.toNat)[i.val] :=
    ⟨by simp [hlen, hi], by rw [List.getElem_take, List.getD_eq_getElem]⟩
  refine ⟨hn, fun i j hi hj he => ?_, fun i => ?_, fun i hi => ?_, fun i _ hne => ?_⟩
  · obtain ⟨_, hpi⟩ := htake i hi
    obtain ⟨_, hpj⟩ := htake j hj
    simp only [hget, hi, hj, if_true, hpi, hpj] at he
    exact Fin.ext (hnodup.getElem_inj_iff.mp he)
  · rw [hget]
    apply Channel.Ok.zero_with_pin
    split
    · rename_i hi
      obtain ⟨hi', hpi⟩ := htake i hi
      exact hpi ▸ hle _ (List.getElem_mem hi')
    · decide
  · simp [hget, hi, Channel.zero]
  · rw [hget] at hne
    exact absurd rfl hne

/-- A pass leaves the position within the bounds of R46 and never brings it to 0 while the target is above 0 (R155). -/
theorem nextPosition_range {position target speed : Nat} (hp : 0 < position ∧ position ≤ 60000)
    (ht : 0 < target ∧ target ≤ 60000) :
    0 < nextPosition position target speed ∧ nextPosition position target speed ≤ 60000 := by
  unfold nextPosition
  split
  · exact hp
  · split
    · omega
    · split
      · exact ht
      · omega

theorem Channel.Ok.interpolate {c : Channel} (h : c.Ok) (hd : c.differs = true) : c.interpolate.Ok := by
  have hne : c.position ≠ c.target := by simpa [Channel.differs] using hd
  have hp : c.position ≠ 0 := fun h0 => hne (h0.trans (h.zero_iff.mp h0).symm)
  have ht : c.target ≠ 0 := fun h0 => hp (h.zero_iff.mpr h0)
  obtain ⟨hlo, hhi⟩ := nextPosition_range (speed := c.speed.toNat) ⟨half_toNat_pos hp, h.position_le⟩
    ⟨half_toNat_pos ht, h.target_le⟩
  have hval : c.interpolate.position.toNat = nextPosition c.position.toNat c.target.toNat c.speed.toNat :=
    Nat.mod_eq_of_lt (by omega)
  refine ⟨h.pin_le, h.target_le, hval ▸ hhi, iff_of_false (fun h0 => ?_) ht⟩
  rw [h0] at hval
  exact absurd hval (Nat.ne_of_lt hlo)

theorem State.interpolate_chan (s : State) (i : Fin 6) : s.interpolate.chan i =
    if s.Configured i ∧ (s.chan i).differs then (s.chan i).interpolate else s.chan i := by
  simp [State.interpolate, State.chan]

/-- An Interpolate pass keeps the table's invariants; `moving` may lag behind an arrival, never ahead of one (R154). -/
theorem State.interpolate_tableInv {s : State} (h : TableInv s.table s.count s.moving) :
    TableInv s.interpolate.table s.count s.anyDiffers := by
  have key (i : Fin 6) : (s.Configured i ∧ (s.chan i).differs = true ∧
        s.interpolate.table.get i = (s.chan i).interpolate) ∨
      (¬(s.Configured i ∧ (s.chan i).differs = true) ∧ s.interpolate.table.get i = s.chan i) := by
    by_cases hi : s.Configured i ∧ (s.chan i).differs = true
    · exact .inl ⟨hi.1, hi.2, (s.interpolate_chan i).trans (if_pos hi)⟩
    · exact .inr ⟨hi, (s.interpolate_chan i).trans (if_neg hi)⟩
  refine h.of_same_pins (fun i => ?_) (fun i => ?_) (fun i hi => ?_) (fun i hi hne => ?_) <;>
    obtain ⟨hc, hd, he⟩ | ⟨hnd, he⟩ := key i
  · rw [he]; rfl
  · rw [he]; rfl
  · exact he ▸ (h.ok i).interpolate hd
  · exact he ▸ h.ok i
  · exact absurd hc hi
  · exact he
  · exact List.any_eq_true.mpr ⟨i, (s.mem_servos i).mpr hc, hd⟩
  · rw [he] at hne
    exact absurd ⟨hi, by simpa [Channel.differs] using hne⟩ hnd

end Table

/-! ### The queue's part -/

theorem State.mem_emitEdges_fq {s : State} {e : FallEvent} : e ∈ s.emitEdges.fq ↔
    ∃ i, s.Configured i ∧ (s.chan i).position ≠ 0 ∧ e = ⟨(s.chan i).position, (s.chan i).pin⟩ :=
  (emit_foldl_mem s.chan s.servos (s.pinOut, []) e).trans (by simp [State.mem_servos])

theorem State.emitEdges_fq_perm (s : State) : s.emitEdges.fq.Perm
    ((s.servos.filter fun i => (s.chan i).position != 0).map fun i => ⟨(s.chan i).position, (s.chan i).pin⟩) :=
  (emit_foldl_perm s.chan s.servos (s.pinOut, [])).trans (by simp)

theorem State.emitEdges_pinOut_getLsbD (s : State) {q : Nat} (hq : q < 6) : s.emitEdges.pinOut.getLsbD q = true ↔
    s.pinOut.getLsbD q = true ∨ ∃ e ∈ s.emitEdges.fq, e.pin.toNat = q := by
  refine (emit_foldl_pin s.chan s.servos (s.pinOut, []) q hq).trans (or_congr_right ⟨?_, ?_⟩)
  · rintro ⟨i, hi, hne, hp⟩
    exact ⟨_, mem_emitEdges_fq.mpr ⟨i, (s.mem_servos i).mp hi, hne, rfl⟩, hp⟩
  · rintro ⟨e, he, hp⟩
    obtain ⟨i, hi, hne, rfl⟩ := mem_emitEdges_fq.mp he
    exact ⟨i, (s.mem_servos i).mpr hi, hne, hp⟩

theorem State.servos_nodup (s : State) : s.servos.Nodup := List.Nodup.filter _ (by decide)

theorem State.servos_length_le (s : State) : s.servos.length ≤ 6 := List.length_filter_le ..

/-- EmitEdges on a block with every pin low: the queue holds the falls of the configured channels with a width, and
exactly their pins are high (R156). -/
theorem State.emitEdges_queueInv {s : State} (h : TableInv s.table s.count s.moving) (hout : s.pinOut = 0) :
    QueueInv s.emitEdges.fq s.emitEdges.pinOut := by
  have hperm := s.emitEdges_fq_perm
  refine ⟨emit_foldl_sorted _ _ _ .nil, ?_, ?_, fun e he => ?_, fun p => ?_⟩
  · rw [hperm.length_eq, List.length_map]
    exact (List.length_filter_le ..).trans s.servos_length_le
  · rw [(hperm.map _).nodup_iff, List.map_map]
    refine (s.servos_nodup.filter _).map_on fun i hi j hj he => ?_
    simp only [List.mem_filter, State.mem_servos] at hi hj
    exact h.pins_distinct i j hi.1 hj.1 he
  · obtain ⟨i, -, hi, rfl⟩ := mem_emitEdges_fq.mp he
    exact ⟨half_toNat_pos hi, (h.ok i).position_le, (h.ok i).pin_le⟩
  · rw [s.emitEdges_pinOut_getLsbD p.isLt, hout]
    simp

/-- Fall service removes the due entries and lowers exactly their pins (R158). -/
theorem QueueInv.serviceLoop {fq : List FallEvent} {out : BitVec 6} (h : QueueInv fq out) (p : Nat) :
    QueueInv (serviceLoop p fq out).1 (serviceLoop p fq out).2 := by
  obtain ⟨due, hsplit, -, -, hout⟩ := serviceLoop_spec p fq out
  generalize (Machine.serviceLoop p fq out).1 = rest at hsplit ⊢
  subst hsplit
  have hsub : rest.Sublist (due ++ rest) := List.sublist_append_right ..
  refine ⟨h.sorted.sublist hsub, hsub.length_le.trans h.length_le, h.pins_nodup.sublist (hsub.map _),
    fun e he => h.range e (hsub.subset he), fun q => ?_⟩
  have hnodup := h.pins_nodup
  rw [List.map_append, List.nodup_append] at hnodup
  obtain ⟨-, -, hdisj⟩ := hnodup
  have hlow : (Machine.serviceLoop p (due ++ rest) out).2.getLsbD q.val = true ↔
      (∃ e ∈ due ++ rest, e.pin.toNat = q.val) ∧ ∀ e ∈ due, e.pin.toNat ≠ q.val := by
    rw [hout, getLsbD_foldl_pinClear _ _ _ _ q.isLt, ← h.pin_high_iff q]
    simp
  rw [hlow]
  constructor
  · rintro ⟨⟨e, he, hp⟩, hdue⟩
    rcases List.mem_append.mp he with hd | hr
    · exact absurd hp (hdue e hd)
    · exact ⟨e, hr, hp⟩
  · rintro ⟨e, he, hp⟩
    refine ⟨⟨e, hsub.subset he, hp⟩, fun d hd hpd => ?_⟩
    exact hdisj _ (List.mem_map_of_mem hd) _ (List.mem_map_of_mem he) (BitVec.eq_of_toNat_eq (hpd.trans hp.symm))

/-! ### The timeline -/

/-- Below the counter's first overflow, the timeline's advance is one tick of `phase` (R160). -/
theorem State.advanceTimeline_phase {s : State} (h : s.phase < 65535) : s.advanceTimeline.phase = s.phase + 1 := by
  rw [State.phase_eq] at h
  obtain ⟨hcnt, hwrap⟩ := State.advanceTimeline_of_no_overflow (s := s) (by omega)
  rw [State.phase_eq, State.phase_eq, hcnt, hwrap, BitVec.toNat_add_of_lt]
  · simp; omega
  · simp; omega

theorem State.advanceTimeline_wrap_le {s : State} (h : s.wrap.toNat ≤ 6) : s.advanceTimeline.wrap.toNat ≤ 6 := by
  by_cases hc : s.cnt.toNat = 65535
  · by_cases hw : s.wrap.toNat = 6
    · rw [(State.advanceTimeline_of_last_overflow hc hw).2]
      decide
    · rw [(State.advanceTimeline_of_overflow hc hw).2]
      simp only [BitVec.toNat_add, BitVec.reduceToNat]
      omega
  · rwa [(State.advanceTimeline_of_no_overflow hc).2]

/-! ## Proofs: each part of a step keeps the invariants -/

/-- Completing a STOP once the queue is empty: every pin is low already (R115, R159). -/
theorem State.completeStop_inv {s : State} (htab : TableInv s.table s.count s.moving) (hq : QueueInv s.fq s.pinOut)
    (hw : s.wrap.toNat ≤ 6) (hnil : s.fq = []) : s.completeStop.Inv := by
  refine .of_parts htab ?_ ?_ hw
  · rw [hnil] at hq
    have hlow : s.completeStop.pinOut = 0 := by
      apply BitVec.eq_of_getLsbD_eq
      intro q hlt
      simp [State.completeStop, hq.pinOut_eq_zero, getLsbD_foldl_pinClear (fun i => (s.chan i).pin) _ _ q hlt]
    rw [hlow, State.completeStop_fq, hnil, ← hq.pinOut_eq_zero]
    exact hq
  · rw [State.completeStop_fq, hnil]
    exact .of_nil ..

theorem State.Inv.enableTimer {s : State} (h : s.Inv) : s.enableTimer.Inv := by
  cases hs : s.started
  · obtain ⟨hp, hnil⟩ := (hs ▸ h.flightInv).of_stopped
    refine .of_parts (by simpa using h.tableInv) (by simpa using h.queueInv) ?_ (by simp [State.enableTimer, hs])
    simpa [hp, hnil] using FlightInv.of_nil true _
  · rwa [State.enableTimer_of_started hs]

theorem State.Inv.beginStep {s : State} (h : s.Inv) (rest : List HostInput) : (s.beginStep rest).Inv :=
  .of_parts h.tableInv h.queueInv h.flightInv h.wrap_le

theorem State.Inv.respond {s : State} (h : s.Inv) (d : Half) : (s.respond d).Inv :=
  .of_parts h.tableInv h.queueInv h.flightInv h.wrap_le

theorem State.Inv.raiseViolation {s : State} (h : s.Inv) (v : Violation) : (s.raiseViolation v).Inv :=
  .of_parts h.tableInv h.queueInv h.flightInv h.wrap_le

theorem State.Inv.configure {s : State} (h : s.Inv) {n : Index} {slots : List Index} (hlen : slots.length = 6)
    (hvalid : startListViolation n slots = none) : (s.configure n slots).Inv :=
  .of_parts (s.configure_tableInv hlen hvalid) h.queueInv h.flightInv h.wrap_le

/-- A target write of a configured channel, with `moving` noting the difference it leaves (R132, R133). -/
theorem State.Inv.setTarget {s : State} (h : s.Inv) {i : Fin 6} {tt : Half} (hi : s.Configured i)
    (htt : tt.toNat ≤ 60000) : (s.setTarget i tt).Inv := by
  refine .of_parts (h.tableInv.set hi rfl ((h.tableInv.ok i).setTargetTicks htt) ?_ ?_) h.queueInv h.flightInv h.wrap_le
  · intro hm
    simp [State.setTarget, hm]
  · intro hd
    simp [State.setTarget, Channel.differs, hd]

theorem State.Inv.setSpeed {s : State} (h : s.Inv) {i : Fin 6} (v : Half) (hi : s.Configured i) :
    (s.setChan i { s.chan i with speed := v }).Inv := by
  obtain ⟨hpin, ht, hp, hz⟩ := h.tableInv.ok i
  exact .of_parts (h.tableInv.set hi rfl ⟨hpin, ht, hp, hz⟩ id (h.tableInv.moving_of_differs i hi)) h.queueInv
    h.flightInv h.wrap_le

theorem State.CommandEffect.inv {s t : State} (he : s.CommandEffect t) (h : s.Inv) : t.Inv := by
  cases he with
  | refused v => exact h.raiseViolation v
  | answered d => exact h.respond d
  | listed n slots hlen hvalid => exact ((h.configure hlen hvalid).enableTimer).respond 0
  | enabled => exact h.enableTimer.respond 0
  | stopped hs hq => exact State.completeStop_inv h.tableInv h.queueInv h.wrap_le hq
  | stopWaits hs hq => exact .of_parts h.tableInv h.queueInv ⟨h.fq_phase, fun _ => ⟨hs, hq⟩⟩ h.wrap_le
  | targetSet i tt hi htt => exact h.setTarget hi htt
  | speedSet i v hi => exact (h.setSpeed v hi).respond 0

/-- The tick of a PeriodStart: the queue is empty, is loaded anew, and every fall is at least one tick away (R152). -/
theorem State.Inv.periodStart {s : State} (h : s.Inv) (hs : s.started = true) (h0 : s.phase = 0)
    (hp : s.stopPending = false) : s.interpolate.emitEdges.advanceTimeline.Inv := by
  have htab : TableInv s.interpolate.table s.interpolate.count s.interpolate.moving := s.interpolate_tableInv h.tableInv
  have hout : s.interpolate.pinOut = 0 := (h.flightInv.fq_eq_nil_of_phase h0 ▸ h.queueInv).pinOut_eq_zero
  have hq := State.emitEdges_queueInv htab hout
  have hphase : s.interpolate.emitEdges.advanceTimeline.phase = 1 := by
    rw [State.advanceTimeline_phase] <;> simp [h0]
  refine .of_parts (by simpa using htab) (by simpa using hq) ⟨fun e he => ?_, ?_⟩ (advanceTimeline_wrap_le h.wrap_le)
  · rw [State.advanceTimeline_fq] at he
    obtain ⟨h1, -, -⟩ := hq.range e he
    exact ⟨by simpa using hs, by omega, by omega⟩
  · simp [hp]

/-- Fall service and the timeline's advance: what stays in the queue falls strictly later, before any overflow (R158). -/
theorem State.Inv.serviceFalls_advanceTimeline {s : State} (h : s.Inv) (hs : s.started = true)
    (hdrain : ¬(s.stopPending = true ∧ (s.serviceFalls s.phase).fq = [])) :
    (s.serviceFalls s.phase).advanceTimeline.Inv := by
  have hfq := serviceLoop_fst_of_sorted (out := s.pinOut) h.fq_sorted fun e he => (h.fq_phase e he).2.2
  refine .of_parts (by simpa using h.tableInv) (by simpa using h.queueInv.serviceLoop s.phase)
    ⟨fun e he => ?_, fun hp => ⟨by simpa using hs, fun hnil => hdrain ⟨by simpa using hp, by simpa using hnil⟩⟩⟩
    (advanceTimeline_wrap_le h.wrap_le)
  simp only [State.advanceTimeline_fq, State.serviceFalls_fq, hfq, List.mem_filter, decide_eq_true_eq] at he
  obtain ⟨hmem, hne⟩ := he
  obtain ⟨-, -, hle⟩ := h.fq_phase e hmem
  obtain ⟨-, ht, -⟩ := h.fq_range e hmem
  have hphase : (s.serviceFalls s.phase).advanceTimeline.phase = s.phase + 1 :=
    State.advanceTimeline_phase (s := s.serviceFalls s.phase) (by rw [State.serviceFalls_phase]; omega)
  exact ⟨by simpa using hs, by omega, by omega⟩

theorem State.Inv.tick {s : State} (h : s.Inv) : s.tick.Inv := by
  obtain ⟨-, ht⟩ | ⟨hs, h0, hp, ht⟩ | ⟨hs, -, hdrain, ht⟩ | ⟨-, -, hnil, ht⟩ := s.tick_cases <;> rw [ht]
  · exact h
  · rw [State.emitEdges_serviceFalls_zero]
    exact h.periodStart hs h0 hp
  · exact h.serviceFalls_advanceTimeline hs hdrain
  · exact State.completeStop_inv h.tableInv (h.queueInv.serviceLoop s.phase) h.wrap_le hnil

theorem State.PortEffect.inv {s u : State} (he : s.PortEffect u) (h : s.Inv) : u.Inv := by
  cases he with
  | idle => exact h
  | accepted _ hu => exact hu.inv h

theorem reset_tableInv : TableInv State.reset.table 0 false where
  count_le := by decide
  pins_distinct _ _ hi := absurd hi (Nat.not_lt_zero _)
  ok i := by fin_cases i <;> exact .zero_with_pin (p := 0) (by decide)
  unused_zero i _ := by fin_cases i <;> rfl
  moving_of_differs _ hi := absurd hi (Nat.not_lt_zero _)

theorem QueueInv.nil : QueueInv [] 0 := ⟨.nil, by decide, .nil, by simp, by simp⟩

/-- The block after reset, whatever the host does next (R211). -/
theorem State.reset_inv (inputs : List HostInput) : State.Inv { State.reset with hostInputs := inputs } :=
  .of_parts reset_tableInv .nil (.of_nil ..) (Nat.zero_le 6)

/-! ## Proofs: the flag and the response of a step (R20, R30, R181) -/

/-- What `viol` and the response port of `t` say together, when the step began with `viol` at `v` and no response: the
flag is up exactly by `v` or by a refusal on the port; and a response means that no STOP waits. -/
structure State.FlagShowsResponse (v : Bool) (t : State) : Prop where
  viol_iff : t.viol = true ↔ v = true ∨ ∃ c, t.rsp = some ⟨some c, 0⟩
  ready_of_rsp : t.rsp ≠ none → t.stopPending = false

section Flag
variable {s t : State}

theorem State.FlagShowsResponse.of_answered {v : Bool} (hv : t.viol = v) (hp : t.stopPending = false) {d : Half}
    (hr : t.rsp = some ⟨none, d⟩) : t.FlagShowsResponse v :=
  ⟨by simp [hv, hr], fun _ => hp⟩

theorem State.FlagShowsResponse.of_silent {v : Bool} (hv : t.viol = v) (hr : t.rsp = none) : t.FlagShowsResponse v :=
  ⟨by simp [hv, hr], fun h => absurd hr h⟩

theorem State.CommandEffect.flagShowsResponse (he : s.CommandEffect t) (hready : s.stopPending = false)
    (hr : s.rsp = none) : t.FlagShowsResponse s.viol := by
  cases he with
  | refused v => exact ⟨by simp, fun _ => hready⟩
  | answered d => exact .of_answered rfl hready rfl
  | listed n slots hlen hvalid => exact .of_answered (by simp) (by simpa using hready) rfl
  | enabled => exact .of_answered (by simp) (by simpa using hready) rfl
  | stopped hs hq => exact .of_answered rfl rfl rfl
  | stopWaits hs hq => exact .of_silent rfl hr
  | targetSet i tt hi htt => exact .of_answered rfl hready rfl
  | speedSet i v hi => exact .of_answered rfl hready rfl

theorem State.PortEffect.flagShowsResponse (he : s.PortEffect t) (hr : s.rsp = none) : t.FlagShowsResponse s.viol := by
  cases he with
  | idle => exact .of_silent rfl hr
  | accepted hready hu => exact hu.flagShowsResponse hready hr

/-- The tick leaves the flag, and puts a response on the port only when it ends a STOP that waited (R115). -/
theorem State.tick_viol_rsp (s : State) :
    s.tick.viol = s.viol ∧ (s.tick.rsp = s.rsp ∨ s.stopPending = true ∧ s.tick.rsp = some ⟨none, 0⟩) := by
  obtain ⟨-, ht⟩ | ⟨-, -, -, ht⟩ | ⟨-, -, -, ht⟩ | ⟨-, hp, -, ht⟩ := s.tick_cases <;> rw [ht]
  · exact ⟨rfl, .inl rfl⟩
  · exact ⟨by simp, .inl (by simp)⟩
  · exact ⟨by simp, .inl (by simp)⟩
  · exact ⟨rfl, .inr ⟨hp, rfl⟩⟩

theorem State.FlagShowsResponse.tick_viol_iff {v : Bool} (h : s.FlagShowsResponse v) :
    s.tick.viol = true ↔ v = true ∨ ∃ c, s.tick.rsp = some ⟨some c, 0⟩ := by
  obtain ⟨hviol, hr | ⟨hp, hr⟩⟩ := s.tick_viol_rsp
  · rw [hviol, hr]
    exact h.viol_iff
  · have hnone : s.rsp = none := by
      by_contra hne
      exact absurd hp (by simp [h.ready_of_rsp hne])
    rw [hviol, hr, h.viol_iff, hnone]
    simp

end Flag

end Sys2Proof.Machine

/-! ## Proofs: the statements -/

namespace Sys2Proof.Proofs

open Sys2Proof Sys2Proof.Machine

/-- Settles O41: a step is a reset edge, or the port's effect, then the tick on an edge, and each of them keeps the
invariants. -/
theorem everyStepKeepsTheInvariants : Obligations.EveryStepKeepsTheInvariants := by
  intro s t h hstep
  obtain ⟨_, _, rest, -, rfl⟩ | ⟨-, u, hu, ht⟩ := step_cases hstep
  · exact State.reset_inv rest
  · have hinv : u.Inv := hu.inv (h.beginStep _)
    obtain ⟨-, rfl⟩ | ⟨-, rfl⟩ := ht
    · exact hinv
    · exact hinv.tick

/-- Settles O12: the port raises the flag exactly with a refusal, and the tick, which answers only a STOP that waited,
cannot overwrite one. -/
theorem violationFlagIsSticky : Obligations.ViolationFlagIsSticky := by
  intro s t hstep
  obtain ⟨v, w, rest, hin, rfl⟩ | ⟨hno, u, hu, ht⟩ := step_cases hstep
  · exact ⟨fun hno => absurd hin (hno v w rest), fun _ => rfl⟩
  · have hflag : u.FlagShowsResponse s.viol := hu.flagShowsResponse rfl
    refine ⟨fun _ => ?_, fun h => absurd hno h⟩
    obtain ⟨-, rfl⟩ | ⟨-, rfl⟩ := ht
    · exact hflag.viol_iff
    · exact hflag.tick_viol_iff

/-- Settles O13: each port is a view of one field. -/
theorem outputPortsShowTheState : Obligations.OutputPortsShowTheState := by
  refine ⟨fun s d => ⟨rfl, rfl, rfl⟩, fun s v => ⟨rfl, rfl, ?_⟩, fun s => ?_, fun s => ?_, fun s => ?_, ?_⟩
  · cases v <;> rfl
  · simp [State.rspValid]
  · simp [State.cmdReady]
  · simp [State.cmp]
  · intro s e rest h
    simp [State.cmp, h]

/-- Settles O40: the block after reset with no input listed. -/
theorem resetEstablishesTheInvariants : Obligations.ResetEstablishesTheInvariants := State.reset_inv []

end Sys2Proof.Proofs

/-! ## Proofs: what one step is, by its input (R63, R64) -/

namespace Sys2Proof.Machine

theorem step_of_input {s : State} {x : HostInput} {rest : List HostInput} (hin : s.hostInputs = x :: rest) :
    step s = (s.beginStep rest).runInput x := by
  simp [step, hin, takeInput]

theorem State.acceptCommand_of_decode_ok {w : CmdWord} {i : Instr} (hw : decode w = .ok i) (s : State) :
    s.acceptCommand w = exec i s := by
  simp [State.acceptCommand, hw]

theorem State.acceptCommand_of_decode_error {w : CmdWord} {v : Violation} (hw : decode w = .error v) (s : State) :
    s.acceptCommand w = .next (s.raiseViolation v) := by
  simp [State.acceptCommand, hw]

theorem State.commandStep_of_ready {s : State} (hready : s.stopPending = false) (w : CmdWord) :
    s.commandStep w = s.acceptCommand w := by
  simp [State.commandStep, State.cmdReady, hready]

theorem State.clockEdge_of_ready {s : State} (hready : s.stopPending = false) (w : CmdWord) :
    s.clockEdge false true w = thenTick (s.acceptCommand w) := by
  simp [State.clockEdge, State.cmdReady, hready]

/-- With no command presented, or a STOP pending, nothing is accepted (R29, U14). -/
theorem State.clockEdge_of_not_accepted {s : State} {v : Bool} (h : v = false ∨ s.stopPending = true) (w : CmdWord) :
    s.clockEdge false v w = .next s.tick := by
  rcases h with h | h <;> simp [State.clockEdge, State.cmdReady, h]

/-- While no STOP is pending the tick answers nothing, so a command's response stays (R63). -/
theorem State.tick_rsp_of_ready {s : State} (hready : s.stopPending = false) : s.tick.rsp = s.rsp := by
  obtain ⟨-, hrsp | ⟨hp, -⟩⟩ := s.tick_viol_rsp
  · exact hrsp
  · simp [hready] at hp

end Sys2Proof.Machine

/-! ## Proofs: which command has which effect (R66) -/

namespace Sys2Proof.Machine

/-- What the command `i` can make of the state: `State.CommandEffect` with the command that has each effect, and with no
condition that R66 does not speak of. -/
inductive State.EffectOf (s : State) (i : Instr) : State → Prop where
  /-- A command whose own checks refuse it (R181). -/
  | refused (v : Violation) : EffectOf s i (s.raiseViolation v)
  /-- A command that only answers (R114, R116, R117, R136 to R141). -/
  | answered (d : Half) : EffectOf s i (s.respond d)
  /-- START.LIST (R111). -/
  | listed (n : Index) (slots : List Index) (hi : Spec.isStartList i = true) :
      EffectOf s i ((s.configure n slots).enableTimer.respond 0)
  /-- START.KEEP (R112). -/
  | enabled (hi : i = .startKeep) : EffectOf s i (s.enableTimer.respond 0)
  /-- STOP of a started block with no pulse in flight (R114). -/
  | stopped (hi : i = .stop) : EffectOf s i s.completeStop
  /-- STOP with a pulse in flight (R114). -/
  | stopWaits (hi : i = .stop) : EffectOf s i { s with stopPending := true }
  /-- SET_TARGET or SET_TARGET_HR of channel `j` (R134, R135). -/
  | targetSet (j : Fin 6) (tt : Half) (hi : Spec.isSetTarget j.val i = true) : EffectOf s i (s.setTarget j tt)
  /-- SET_SPEED of channel `j` (R138). -/
  | speedSet (j : Fin 6) (v : Half) (hi : Spec.isSetSpeed j.val i = true) :
      EffectOf s i ((s.setChan j { s.chan j with speed := v }).respond 0)

theorem isStart_of_isStartList {i : Instr} (h : Spec.isStartList i = true) : Spec.isStart i = true := by
  cases i with
  | startList => rfl
  | _ => simp [Spec.isStartList] at h

theorem State.EffectOf.of_withChannel {s : State} {i : Instr} {num : Index} {k : Fin 6 → State}
    (hk : ∀ j : Fin 6, num.toNat = j.val → s.EffectOf i (k j)) : s.EffectOf i (s.withChannel num k) := by
  obtain ⟨-, h⟩ | ⟨j, hj, -, h⟩ := s.withChannel_cases num k
  · exact h ▸ .refused .eNum
  · exact h ▸ hk j hj

theorem exec_effectOf {i : Instr} {s t : State} (h : exec i s = .next t) : s.EffectOf i t := by
  suffices h' : ∃ u, exec i s = .next u ∧ s.EffectOf i u by
    obtain ⟨u, hu, he⟩ := h'
    exact Host.Outcome.next.inj (hu.symm.trans h) ▸ he
  cases i with
  | startList n p0 p1 p2 p3 p4 p5 =>
    obtain ⟨v, -, h⟩ | ⟨-, h⟩ := execStartList_cases n p0 p1 p2 p3 p4 p5 s
    · exact ⟨_, h, .refused v⟩
    · exact ⟨_, h, .listed n _ rfl⟩
  | startKeep => exact ⟨_, rfl, .enabled rfl⟩
  | stop =>
    obtain ⟨-, h⟩ | ⟨-, -, h⟩ | ⟨-, -, h⟩ := execStop_cases s
    · exact ⟨_, h, .answered 0⟩
    · exact ⟨_, h, .stopped rfl⟩
    · exact ⟨_, h, .stopWaits rfl⟩
  | isStarted => exact ⟨_, rfl, .answered _⟩
  | isMoving => exact ⟨_, rfl, .answered _⟩
  | setTarget num val => exact ⟨_, rfl, .of_withChannel fun j hj => .targetSet j _ (by simp [Spec.isSetTarget, hj])⟩
  | getTarget num => exact ⟨_, rfl, .of_withChannel fun _ _ => .answered _⟩
  | setSpeed num val => exact ⟨_, rfl, .of_withChannel fun j hj => .speedSet j val (by simp [Spec.isSetSpeed, hj])⟩
  | getSpeed num => exact ⟨_, rfl, .of_withChannel fun _ _ => .answered _⟩
  | getPosition num => exact ⟨_, rfl, .of_withChannel fun _ _ => .answered _⟩
  | setTargetHr num val => exact ⟨_, rfl, .of_withChannel fun j hj => .targetSet j _ (by simp [Spec.isSetTarget, hj])⟩
  | getTargetHr num => exact ⟨_, rfl, .of_withChannel fun _ _ => .answered _⟩
  | getPositionHr num => exact ⟨_, rfl, .of_withChannel fun _ _ => .answered _⟩

theorem State.setChan_chan (s : State) (i j : Fin 6) (c : Channel) :
    (s.setChan i c).chan j = if j = i then c else s.chan j := by
  by_cases h : j = i
  · rw [if_pos h, h, State.setChan_chan_self]
  · rw [if_neg h, State.setChan_chan_of_ne _ _ h]

/-- Enabling the timer writes `cnt` and `wrap` only in a stopped block, to `phase` 0 (R113). -/
theorem State.enableTimer_timeline_ne {s : State} (h : s.enableTimer.cnt ≠ s.cnt ∨ s.enableTimer.wrap ≠ s.wrap) :
    s.started = false ∧ s.enableTimer.phase = 0 := by
  cases hs : s.started
  · exact ⟨rfl, State.enableTimer_phase_of_stopped hs⟩
  · simp [State.enableTimer_of_started hs] at h

/-- The end of a STOP lowers exactly the configured pins (R115). -/
theorem State.completeStop_pinHigh (s : State) (q : Fin 6) : s.completeStop.pinHigh q.val = true ↔
    s.pinHigh q.val = true ∧ ∀ i : Fin 6, s.Configured i → (s.chan i).pin.toNat ≠ q.val := by
  have h := getLsbD_foldl_pinClear (fun i => (s.chan i).pin) s.servos s.pinOut q.val q.isLt
  change (List.foldl _ s.pinOut s.servos).getLsbD q.val = true ↔ _
  rw [h]
  simp [State.mem_servos, State.pinHigh]

/-- A write to entry `i` that leaves the field `f` of it leaves `f` of every entry. -/
theorem State.setChan_chan_field {α : Type} (f : Channel → α) {s : State} {i : Fin 6} {c : Channel}
    (h : f c = f (s.chan i)) (j : Fin 6) : f ((s.setChan i c).chan j) = f (s.chan j) := by
  rw [State.setChan_chan]
  split
  · rename_i hj
    rw [hj, h]
  · rfl

/-- A write to entry `i` changes no other entry. -/
theorem State.eq_of_setChan_chan_ne {α : Type} (f : Channel → α) {s : State} {i j : Fin 6} {c : Channel}
    (h : f ((s.setChan i c).chan j) ≠ f (s.chan j)) : j = i := by
  by_contra hj
  exact h (by rw [State.setChan_chan_of_ne s c hj])

/-- The end of a STOP changes a pin only to low. -/
theorem State.completeStop_pinHigh_ne {s : State} {q : Fin 6} (h : s.completeStop.pinHigh q.val ≠ s.pinHigh q.val) :
    s.completeStop.pinHigh q.val = false := by
  by_contra hhigh
  rw [Bool.not_eq_false] at hhigh
  exact h (hhigh.trans ((s.completeStop_pinHigh q).mp hhigh).1.symm)

/-! ### What a set-target and a SET_SPEED write (R132, R133, R138) -/

theorem State.setSpeed_chan (s : State) (i j : Fin 6) (v : Half) :
    (s.setChan i { s.chan i with speed := v }).chan j =
      { s.chan j with speed := if j = i then v else (s.chan j).speed } := by
  rw [State.setChan_chan]
  split <;> rename_i hj <;> simp [hj]

@[simp] theorem State.setTarget_chan_pin (s : State) (i j : Fin 6) (tt : Half) :
    ((s.setTarget i tt).chan j).pin = (s.chan j).pin :=
  State.setChan_chan_field (c := (s.chan i).setTargetTicks tt) (·.pin) rfl j

@[simp] theorem State.setTarget_chan_speed (s : State) (i j : Fin 6) (tt : Half) :
    ((s.setTarget i tt).chan j).speed = (s.chan j).speed :=
  State.setChan_chan_field (c := (s.chan i).setTargetTicks tt) (·.speed) rfl j

theorem State.setTarget_chan_self (s : State) (i : Fin 6) (tt : Half) :
    (s.setTarget i tt).chan i = (s.chan i).setTargetTicks tt :=
  s.setChan_chan_self i _

/-- A position changes only by the fast path (R132). -/
theorem State.setTarget_position_ne {s : State} {i : Fin 6} {tt : Half}
    (h : ((s.setTarget i tt).chan i).position ≠ (s.chan i).position) :
    (s.chan i).speed = 0 ∨ (s.chan i).position = 0 ∨ ((s.setTarget i tt).chan i).target = 0 := by
  rw [State.setTarget_chan_self] at h ⊢
  by_contra hslow
  exact h (if_neg hslow)

/-- A set-target never clears `moving` (R133). -/
theorem State.setTarget_moving_ne {s : State} {i : Fin 6} {tt : Half}
    (h : (s.setTarget i tt).moving ≠ s.moving) : (s.setTarget i tt).moving = true := by
  cases hm : s.moving
  · simpa [hm] using h
  · simp [State.setTarget, hm]

end Sys2Proof.Machine

/-! ## Proofs: what the tick writes, and when (R66, R150) -/

namespace Sys2Proof.Machine

theorem State.interpolate_chan_frame (s : State) (j : Fin 6) : (s.interpolate.chan j).pin = (s.chan j).pin ∧
    (s.interpolate.chan j).target = (s.chan j).target ∧ (s.interpolate.chan j).speed = (s.chan j).speed := by
  rw [State.interpolate_chan]
  split <;> exact ⟨rfl, rfl, rfl⟩

/-- The timeline advances by one tick modulo the period (R160). -/
theorem State.advanceTimeline_phase_mod {s : State} (h : s.wrap.toNat ≤ 6) :
    s.advanceTimeline.phase = (s.phase + 1) % 458752 := by
  have hcnt := s.cnt.isLt
  simp only [State.phase_eq]
  by_cases hc : s.cnt.toNat = 65535
  · by_cases hw : s.wrap.toNat = 6
    · obtain ⟨h1, h2⟩ := State.advanceTimeline_of_last_overflow hc hw
      rw [h1, h2, hc, hw]
      rfl
    · obtain ⟨h1, h2⟩ := State.advanceTimeline_of_overflow hc hw
      simp only [h1, h2, BitVec.toNat_add, BitVec.reduceToNat]
      omega
  · obtain ⟨h1, h2⟩ := State.advanceTimeline_of_no_overflow hc
    simp only [h1, h2, BitVec.toNat_add, BitVec.reduceToNat]
    omega

/-- Fall service splits the queue into the leading due entries and the rest, and lowers exactly the due pins (R158). -/
theorem State.serviceFalls_due (s : State) (p : Nat) : ∃ due, s.fq = due ++ (s.serviceFalls p).fq ∧
    (∀ e ∈ due, e.t.toNat = p) ∧ (∀ e, (s.serviceFalls p).fq.head? = some e → e.t.toNat ≠ p) ∧
    ∀ q : Fin 6, (s.serviceFalls p).pinHigh q.val = true ↔
      s.pinHigh q.val = true ∧ ∀ e ∈ due, e.pin.toNat ≠ q.val := by
  obtain ⟨due, hsplit, hdue, hhead, hout⟩ := serviceLoop_spec p s.fq s.pinOut
  refine ⟨due, hsplit, hdue, hhead, fun q => ?_⟩
  rw [State.pinHigh, State.serviceFalls_pinOut, hout, getLsbD_foldl_pinClear _ _ _ _ q.isLt]
  simp [State.pinHigh]

section Pins
variable {s : State} {q : Fin 6}

theorem State.serviceFalls_pinHigh_le {p : Nat} (h : (s.serviceFalls p).pinHigh q.val = true) :
    s.pinHigh q.val = true := by
  obtain ⟨due, -, -, -, hpin⟩ := s.serviceFalls_due p
  exact ((hpin q).mp h).1

/-- Only a due entry that names the pin lowers it in fall service. -/
theorem State.serviceFalls_pin_falls {p : Nat} (h : s.pinHigh q.val = true)
    (hlow : (s.serviceFalls p).pinHigh q.val = false) : ∃ e ∈ s.fq, e.t.toNat = p ∧ e.pin.toNat = q.val := by
  obtain ⟨due, hsplit, hdue, -, hpin⟩ := s.serviceFalls_due p
  by_contra hnone
  have hkeeps : ∀ e ∈ due, e.pin.toNat ≠ q.val := fun e he hq =>
    hnone ⟨e, hsplit ▸ List.mem_append_left _ he, hdue e he, hq⟩
  exact absurd ((hpin q).mpr ⟨h, hkeeps⟩) (by simp [hlow])

theorem State.completeStop_pin_falls (h : s.pinHigh q.val = true) (hlow : s.completeStop.pinHigh q.val = false) :
    ∃ i : Fin 6, s.Configured i ∧ (s.chan i).pin.toNat = q.val := by
  by_contra hnone
  push Not at hnone
  exact absurd ((s.completeStop_pinHigh q).mpr ⟨h, hnone⟩) (by simp [hlow])

theorem State.emitEdges_pinHigh_of_high (h : s.pinHigh q.val = true) : s.emitEdges.pinHigh q.val = true :=
  (s.emitEdges_pinOut_getLsbD q.isLt).mpr (.inl h)

end Pins

@[simp] theorem State.advanceTimeline_pinHigh (s : State) (q : Nat) :
    s.advanceTimeline.pinHigh q = s.pinHigh q := by
  simp [State.pinHigh]

section Tick
variable (s : State)

/-- What the tick never writes (R66). -/
theorem State.tick_frame : s.tick.count = s.count ∧ s.tick.pinOe = s.pinOe ∧ s.tick.viol = s.viol ∧
    s.tick.hostInputs = s.hostInputs ∧ ∀ j : Fin 6, (s.tick.chan j).pin = (s.chan j).pin ∧
      (s.tick.chan j).target = (s.chan j).target ∧ (s.tick.chan j).speed = (s.chan j).speed := by
  obtain ⟨-, ht⟩ | ⟨-, -, -, ht⟩ | ⟨-, -, -, ht⟩ | ⟨-, -, -, ht⟩ := s.tick_cases
  · simp [ht]
  · simpa [ht] using s.interpolate_chan_frame
  · simp [ht]
  · simp [ht]

variable {s}

/-- Off a PeriodStart, a tick moves no channel, keeps `moving`, and raises no pin. -/
theorem State.tick_of_not_periodStart (h : ¬(s.started = true ∧ s.phase = 0 ∧ s.stopPending = false)) :
    (∀ j, s.tick.chan j = s.chan j) ∧ s.tick.moving = s.moving ∧
      ∀ q : Fin 6, s.tick.pinHigh q.val = true → s.pinHigh q.val = true := by
  obtain ⟨-, ht⟩ | ⟨hs, h0, hp, -⟩ | ⟨-, -, -, ht⟩ | ⟨-, -, -, ht⟩ := s.tick_cases
  · simp [ht]
  · exact absurd ⟨hs, h0, hp⟩ h
  · rw [ht]
    refine ⟨by simp, by simp, fun q hq => ?_⟩
    rw [State.advanceTimeline_pinHigh] at hq
    exact State.serviceFalls_pinHigh_le hq
  · rw [ht]
    exact ⟨by simp, by simp, fun q hq =>
      State.serviceFalls_pinHigh_le ((State.completeStop_pinHigh _ q).mp hq).1⟩

/-- A tick ends a drain, or leaves `started`, `stop_pending` and the response (R159). -/
theorem State.tick_ends_drain_or_keeps :
    (s.stopPending = true ∧ s.tick.started = false ∧ s.tick.stopPending = false ∧ s.tick.fq = [] ∧
      s.tick.rsp = some ⟨none, 0⟩) ∨
    (s.tick.started = s.started ∧ s.tick.stopPending = s.stopPending ∧ s.tick.rsp = s.rsp) := by
  obtain ⟨-, ht⟩ | ⟨-, -, -, ht⟩ | ⟨-, -, -, ht⟩ | ⟨-, hp, hnil, ht⟩ := s.tick_cases <;> rw [ht]
  · exact .inr ⟨rfl, rfl, rfl⟩
  · exact .inr (by simp)
  · exact .inr (by simp)
  · exact .inl ⟨hp, rfl, rfl, hnil, rfl⟩

/-- The timeline holds when the block is stopped after the tick. -/
theorem State.tick_timeline_of_stopped (h : s.tick.started = false) : s.tick.cnt = s.cnt ∧ s.tick.wrap = s.wrap := by
  obtain ⟨-, ht⟩ | ⟨hs, -, -, ht⟩ | ⟨hs, -, -, ht⟩ | ⟨-, -, -, ht⟩ := s.tick_cases
  · simp [ht]
  · simp [ht, hs] at h
  · simp [ht, hs] at h
  · simp [ht]

theorem State.tick_timeline_of_started (h : s.tick.started = true) (hw : s.wrap.toNat ≤ 6) :
    s.tick.phase = (s.phase + 1) % 458752 ∧ s.tick.wrap.toNat ≤ 6 := by
  obtain ⟨hs, ht⟩ | ⟨-, -, -, ht⟩ | ⟨-, -, -, ht⟩ | ⟨-, -, -, ht⟩ := s.tick_cases
  · simp [ht, hs] at h
  · rw [ht]
    exact ⟨State.advanceTimeline_phase_mod hw, State.advanceTimeline_wrap_le hw⟩
  · rw [ht]
    exact ⟨State.advanceTimeline_phase_mod hw, State.advanceTimeline_wrap_le hw⟩
  · simp [ht] at h

theorem State.tick_of_periodStart (hs : s.started = true) (h0 : s.phase = 0) (hp : s.stopPending = false) :
    s.tick = s.interpolate.emitEdges.advanceTimeline := by
  obtain ⟨hs', -⟩ | ⟨-, -, -, ht⟩ | ⟨-, hor, -, -⟩ | ⟨-, hp', -, -⟩ := s.tick_cases
  · simp [hs] at hs'
  · rw [ht, State.emitEdges_serviceFalls_zero]
  · simp [h0, hp] at hor
  · simp [hp] at hp'

/-- In a started block and off a PeriodStart, fall service alone writes the queue. -/
theorem State.tick_fq_of_service (hs : s.started = true) (h : s.phase ≠ 0 ∨ s.stopPending = true) :
    s.tick.fq = (s.serviceFalls s.phase).fq := by
  obtain ⟨hs', -⟩ | ⟨-, h0, hp, -⟩ | ⟨-, -, -, ht⟩ | ⟨-, -, -, ht⟩ := s.tick_cases
  · simp [hs] at hs'
  · simp [h0, hp] at h
  · rw [ht, State.advanceTimeline_fq]
  · rw [ht, State.completeStop_fq]

/-- A pin falls by a due entry, or by the end of a drain (R158, R159). -/
theorem State.tick_pin_falls {q : Fin 6} (h : s.pinHigh q.val = true) (hlow : s.tick.pinHigh q.val = false) :
    s.started = true ∧ (s.phase ≠ 0 ∨ s.stopPending = true) ∧
      ((∃ e ∈ s.fq, e.t.toNat = s.phase ∧ e.pin.toNat = q.val) ∨
        (s.stopPending = true ∧ s.tick.started = false ∧
          ∃ i : Fin 6, i.val < s.count.toNat ∧ (s.chan i).pin.toNat = q.val)) := by
  obtain ⟨-, ht⟩ | ⟨hs, h0, hp, -⟩ | ⟨hs, hor, -, ht⟩ | ⟨hs, hp, -, ht⟩ := s.tick_cases
  · simp [ht, h] at hlow
  · have hhigh : s.interpolate.emitEdges.pinHigh q.val = true := State.emitEdges_pinHigh_of_high h
    simp [State.tick_of_periodStart hs h0 hp, hhigh] at hlow
  · rw [ht, State.advanceTimeline_pinHigh] at hlow
    exact ⟨hs, hor, .inl (State.serviceFalls_pin_falls h hlow)⟩
  · refine ⟨hs, .inr hp, ?_⟩
    rw [ht] at hlow ⊢
    cases hservice : (s.serviceFalls s.phase).pinHigh q.val
    · exact .inl (State.serviceFalls_pin_falls h hservice)
    · exact .inr ⟨hp, rfl, State.completeStop_pin_falls (s := s.serviceFalls s.phase) hservice hlow⟩

end Tick

end Sys2Proof.Machine

/-! ## Proofs: the statements about steps, commands and the tick (R62 to R66) -/

namespace Sys2Proof.Proofs

open Sys2Proof Sys2Proof.Machine

/-- Settles O7: a ready port accepts the word, and the decoder gives the command. -/
theorem stepRunsTheDecodedCommand : Obligations.StepRunsTheDecodedCommand := by
  intro s w rest i hin hready hw
  calc step s = (s.beginStep rest).commandStep w := step_of_input hin
    _ = (s.beginStep rest).acceptCommand w := State.commandStep_of_ready (s := s.beginStep rest) hready w
    _ = exec i (s.beginStep rest) := State.acceptCommand_of_decode_ok hw _

/-- Settles O8: a response means that no STOP waits, and only a tick that ends a waiting STOP answers by itself. -/
theorem edgeRunsResetOrCommandThenTick : Obligations.EdgeRunsResetOrCommandThenTick := by
  intro s rst v w rest hin s0
  have hstep : step s = s0.clockEdge rst v w := step_of_input hin
  refine ⟨?reset, ?performed, ?refused, ?idle⟩
  case reset =>
    rintro rfl
    exact hstep
  case performed =>
    rintro rfl rfl hready i hw
    obtain ⟨t, ht, he⟩ := exec_commandEffect i s0
    refine ⟨t, ht, ?_, fun hsome => ?_⟩
    · rw [hstep, State.clockEdge_of_ready (s := s0) hready, State.acceptCommand_of_decode_ok hw, ht, thenTick]
    · have hdone := (he.flagShowsResponse hready rfl).ready_of_rsp (Option.isSome_iff_ne_none.mp hsome)
      exact ⟨hdone, State.tick_rsp_of_ready hdone⟩
  case refused =>
    rintro rfl rfl hready c hw
    refine ⟨?_, State.tick_rsp_of_ready hready⟩
    rw [hstep, State.clockEdge_of_ready (s := s0) hready, State.acceptCommand_of_decode_error hw, thenTick]
    rfl
  case idle =>
    rintro rfl h
    rw [hstep, State.clockEdge_of_not_accepted (s := s0) h]

/-- Settles O27: by the command's effect; the laws of the state settle every clause whose field the effect does not
write. -/
theorem commandsWriteOnlyTheirState : Obligations.CommandsWriteOnlyTheirState := by
  intro i s t h
  cases exec_effectOf h with
  | refused v =>
    have hcode : ∃ w, s.raiseViolation v = Spec.refused s w := ⟨v, rfl⟩
    simp [State.pinHigh, hcode]
  | answered d => simp [State.pinHigh]
  | listed n slots hi =>
    have hstart := isStart_of_isStartList hi
    simpa [State.pinHigh, hi, hstart] using @State.enableTimer_timeline_ne (s.configure n slots)
  | enabled hi =>
    have hstart : Spec.isStart i = true := hi ▸ rfl
    simpa [State.pinHigh, hstart] using @State.enableTimer_timeline_ne s
  | stopped hi => simpa [hi] using fun q => @State.completeStop_pinHigh_ne s q
  | stopWaits hi => simp [State.pinHigh, hi, State.chan]
  | targetSet j tt hi =>
    refine ⟨rfl, rfl, ?config, fun k hk => ?target, fun k hk => ?position, fun k hk => ?speed, fun hm => ?moving,
      absurd rfl, absurd rfl, ?timeline, fun _ => absurd rfl, absurd rfl⟩
    case config =>
      rintro (hc | hoe | ⟨k, hpin⟩)
      · exact absurd rfl hc
      · exact absurd rfl hoe
      · simp at hpin
    case target => exact .inr (State.eq_of_setChan_chan_ne (·.target) hk ▸ hi)
    case position =>
      obtain rfl : k = j := State.eq_of_setChan_chan_ne (·.position) hk
      exact .inr ⟨hi, State.setTarget_position_ne hk⟩
    case speed => simp at hk
    case moving => exact .inr ⟨State.setTarget_moving_ne hm, j, hi⟩
    case timeline => simp [State.setTarget]
  | speedSet j v hi =>
    refine ⟨rfl, rfl, ?config, fun k hk => ?target, fun k hk => ?position, fun k hk => ?speed, absurd rfl,
      absurd rfl, absurd rfl, ?timeline, fun _ => absurd rfl, absurd rfl⟩
    case config => simp [State.setSpeed_chan]
    case target => simp [State.setSpeed_chan] at hk
    case position => simp [State.setSpeed_chan] at hk
    case speed => exact .inr (State.eq_of_setChan_chan_ne (·.speed) hk ▸ hi)
    case timeline => simp

/-- Settles O39: each clause is what one part of the tick writes. -/
theorem tickWritesOnlyItsState : Obligations.TickWritesOnlyItsState := by
  intro s
  obtain ⟨hcount, hoe, hviol, hinputs, hchan⟩ := s.tick_frame
  refine ⟨hcount, hoe, hviol, hinputs, hchan, fun h => ?passes, fun h => ?drain, State.tick_timeline_of_stopped,
    State.tick_timeline_of_started, fun hs => ?stopped, fun hs h0 hp => ?loads, fun hs h => ?pops,
    fun q => State.tick_pin_falls⟩
  case passes =>
    by_contra hn
    obtain ⟨hsame, hmoving, hrise⟩ := State.tick_of_not_periodStart hn
    obtain ⟨j, hj⟩ | hm | ⟨q, hlow, hhigh⟩ := h
    · exact hj (by rw [hsame])
    · exact hm hmoving
    · simp [hrise q hhigh] at hlow
  case drain =>
    obtain hend | ⟨hs, hp, hr⟩ := s.tick_ends_drain_or_keeps
    · exact hend
    · simp [hs, hp, hr] at h
  case stopped => simp [State.tick, hs]
  case loads => rw [State.tick_of_periodStart hs h0 hp, State.advanceTimeline_fq]
  case pops =>
    obtain ⟨due, hsplit, hdue, hhead, -⟩ := s.serviceFalls_due s.phase
    rw [State.tick_fq_of_service hs h]
    exact ⟨due, hsplit, hdue, hhead⟩

end Sys2Proof.Proofs

/-! ## Proofs: the four formats of a command word, and which command stands in which (R81 to R85) -/

namespace Sys2Proof

/-- The commands of format N, by their `op` (R81, R85). -/
inductive FormatN : BitVec 4 → Instr → Prop where
  | stop : FormatN 2#4 .stop
  | isStarted : FormatN 3#4 .isStarted
  | isMoving : FormatN 4#4 .isMoving

/-- The commands of format C, by their `op` (R82, R85). -/
inductive FormatC : BitVec 4 → (Index → Instr) → Prop where
  | getTarget : FormatC 6#4 .getTarget
  | getSpeed : FormatC 8#4 .getSpeed
  | getPosition : FormatC 9#4 .getPosition
  | getTargetHr : FormatC 11#4 .getTargetHr
  | getPositionHr : FormatC 12#4 .getPositionHr

/-- The commands of format V, by their `op` (R83, R85). -/
inductive FormatV : BitVec 4 → (Index → Half → Instr) → Prop where
  | setTarget : FormatV 5#4 .setTarget
  | setSpeed : FormatV 7#4 .setSpeed
  | setTargetHr : FormatV 10#4 .setTargetHr

/-- Every command is one of the two START forms or of one of the other three formats (R85). -/
inductive Instr.HasFormat : Instr → Prop where
  | startList (n p0 p1 p2 p3 p4 p5 : Index) : HasFormat (.startList n p0 p1 p2 p3 p4 p5)
  | startKeep : HasFormat .startKeep
  | formatN {op : BitVec 4} {i : Instr} (h : FormatN op i) : HasFormat i
  | formatC {op : BitVec 4} {mk : Index → Instr} (h : FormatC op mk) (num : Index) : HasFormat (mk num)
  | formatV {op : BitVec 4} {mk : Index → Half → Instr} (h : FormatV op mk) (num : Index) (val : Half) :
      HasFormat (mk num val)

theorem Instr.hasFormat (i : Instr) : i.HasFormat := by
  cases i with
  | startList n p0 p1 p2 p3 p4 p5 => exact .startList n p0 p1 p2 p3 p4 p5
  | startKeep => exact .startKeep
  | stop => exact .formatN .stop
  | isStarted => exact .formatN .isStarted
  | isMoving => exact .formatN .isMoving
  | setTarget num val => exact .formatV .setTarget num val
  | getTarget num => exact .formatC .getTarget num
  | setSpeed num val => exact .formatV .setSpeed num val
  | getSpeed num => exact .formatC .getSpeed num
  | getPosition num => exact .formatC .getPosition num
  | setTargetHr num val => exact .formatV .setTargetHr num val
  | getTargetHr num => exact .formatC .getTargetHr num
  | getPositionHr num => exact .formatC .getPositionHr num

/-- Every `op` is reserved, START's, or that of a format (R85, R89). -/
inductive OpHasFormat (op : BitVec 4) : Prop where
  | reserved (h : opReserved op = true)
  | start (h : op = 1#4)
  | formatN {i : Instr} (h : FormatN op i)
  | formatC {mk : Index → Instr} (h : FormatC op mk)
  | formatV {mk : Index → Half → Instr} (h : FormatV op mk)

theorem opHasFormat (w : CmdWord) : OpHasFormat (opField w) := by
  obtain h | h | h | h | h | h | h | h | h | h | h | h | h := opField_cases w
  · exact .reserved h
  · exact .start h
  · exact h ▸ .formatN .stop
  · exact h ▸ .formatN .isStarted
  · exact h ▸ .formatN .isMoving
  · exact h ▸ .formatV .setTarget
  · exact h ▸ .formatC .getTarget
  · exact h ▸ .formatV .setSpeed
  · exact h ▸ .formatC .getSpeed
  · exact h ▸ .formatC .getPosition
  · exact h ▸ .formatV .setTargetHr
  · exact h ▸ .formatC .getTargetHr
  · exact h ▸ .formatC .getPositionHr

section Formats

variable {op : BitVec 4}

theorem FormatN.encode_eq {i : Instr} (h : FormatN op i) : encode i = encodeN op := by
  cases h <;> rfl

theorem FormatC.encode_eq {mk : Index → Instr} (h : FormatC op mk) (num : Index) :
    encode (mk num) = encodeC op num := by
  cases h <;> rfl

theorem FormatV.encode_eq {mk : Index → Half → Instr} (h : FormatV op mk) (num : Index) (val : Half) :
    encode (mk num val) = encodeV op num val := by
  cases h <;> rfl

theorem FormatN.tableRow_eq {i : Instr} (h : FormatN op i) : i.tableRow = (encodeN op, 0xFFFFFFFF#32) := by
  cases h <;> rfl

theorem FormatC.tableRow_eq {mk : Index → Instr} (h : FormatC op mk) (num : Index) :
    (mk num).tableRow = (encodeN op, 0xFFF8FFFF#32) := by
  cases h <;> rfl

theorem FormatV.tableRow_eq {mk : Index → Half → Instr} (h : FormatV op mk) (num : Index) (val : Half) :
    (mk num val).tableRow = (encodeN op, 0xFFF80000#32) := by
  cases h <;> rfl

end Formats

end Sys2Proof

/-! ## Proofs: the decoder answers a command of the word's own fields, exactly when the word is that command's (R81 to
R86, R90) -/

namespace Sys2Proof

/-! ### The fixed bits of a format, as numbers -/

theorem extractLsb'_eq_iff (w : CmdWord) (s k : Nat) (x : BitVec k) :
    w.extractLsb' s k = x ↔ w.toNat / 2 ^ s % 2 ^ k = x.toNat := by
  rw [← BitVec.toNat_inj, extractLsb'_eq_div_mod]

theorem opField_eq_iff (w : CmdWord) (op : BitVec 4) : opField w = op ↔ w.toNat / 2 ^ 28 = op.toNat := by
  rw [← BitVec.toNat_inj, opField_toNat]

/-- Format N: nothing but `op` (R81). -/
theorem encodeN_opField_iff (w : CmdWord) : encodeN (opField w) = w ↔ w.extractLsb' 0 28 = 0#28 := by
  rw [extractLsb'_eq_iff, ← BitVec.toNat_inj, encodeN_toNat, opField_toNat, BitVec.toNat_ofNat]
  omega

/-- Format C: `op` and `num` (R82). -/
theorem encodeC_fields_iff (w : CmdWord) :
    encodeC (opField w) (numField w) = w ↔ w.extractLsb' 19 9 = 0#9 ∧ w.extractLsb' 0 16 = 0#16 := by
  rw [extractLsb'_eq_iff, extractLsb'_eq_iff, ← BitVec.toNat_inj, encodeC_toNat, opField_toNat, numField_toNat,
    BitVec.toNat_ofNat, BitVec.toNat_ofNat]
  omega

/-- Format V: `op`, `num` and `val` (R83). -/
theorem encodeV_fields_iff (w : CmdWord) :
    encodeV (opField w) (numField w) (valField w) = w ↔ w.extractLsb' 19 9 = 0#9 := by
  rw [extractLsb'_eq_iff, ← BitVec.toNat_inj, encodeV_toNat, opField_toNat, numField_toNat, valField_toNat,
    BitVec.toNat_ofNat]
  omega

/-- START.LIST of the count and the six slots of a word (R87). -/
def listOfFields (w : CmdWord) : Instr :=
  .startList (countField w) (pinField w 0) (pinField w 1) (pinField w 2) (pinField w 3) (pinField w 4) (pinField w 5)

theorem encode_listOfFields_toNat (w : CmdWord) : (encode (listOfFields w)).toNat = 2 ^ 28 + w.toNat % 2 ^ 21 := by
  simp only [listOfFields, encode, encodeS_toNat, countField_toNat, pinField_toNat, BitVec.toNat_ofNat, Nat.reduceMul]
  omega

/-- START.LIST: `op` is 1, bits 27:21 are zero, the rest is the count and the slots (R84). -/
theorem encode_listOfFields_iff (w : CmdWord) :
    encode (listOfFields w) = w ↔ opField w = 1#4 ∧ w.extractLsb' 22 6 = 0#6 ∧ w.extractLsb' 21 1 = 0#1 := by
  rw [opField_eq_iff, extractLsb'_eq_iff, extractLsb'_eq_iff, ← BitVec.toNat_inj, encode_listOfFields_toNat]
  simp only [BitVec.toNat_ofNat]
  omega

/-- START.KEEP: one word (R84). -/
theorem encode_startKeep_iff (w : CmdWord) :
    encode .startKeep = w ↔
      opField w = 1#4 ∧ w.extractLsb' 22 6 = 0#6 ∧ w.extractLsb' 21 1 = 1#1 ∧ w.extractLsb' 0 21 = 0#21 := by
  have := w.isLt
  rw [opField_eq_iff, extractLsb'_eq_iff, extractLsb'_eq_iff, extractLsb'_eq_iff, ← BitVec.toNat_inj,
    show (encode .startKeep).toNat = 0x10200000 from rfl]
  simp only [BitVec.toNat_ofNat]
  omega

/-! ### The decoder, by format -/

/-- What the decoder answers on `w` when `i` is the command of the word's own fields. -/
def readAs (w : CmdWord) (i : Instr) : Except Violation Instr := if encode i = w then .ok i else .error .eReserved

theorem readAs_encode (i : Instr) : readAs (encode i) i = .ok i := if_pos rfl

section Decoder

variable {op : BitVec 4} {w : CmdWord}

theorem FormatN.decode_eq {i : Instr} (h : FormatN op i) (hop : opField w = op) : decode w = readAs w i := by
  have hdec : decode w = decodeN w i := by
    cases h with
    | stop => exact decode_of_op_2 hop
    | isStarted => exact decode_of_op_3 hop
    | isMoving => exact decode_of_op_4 hop
  subst hop
  simp only [hdec, decodeN, readAs, h.encode_eq, encodeN_opField_iff]

theorem FormatC.decode_eq {mk : Index → Instr} (h : FormatC op mk) (hop : opField w = op) :
    decode w = readAs w (mk (numField w)) := by
  have hdec : decode w = decodeC w mk := by
    cases h with
    | getTarget => exact decode_of_op_6 hop
    | getSpeed => exact decode_of_op_8 hop
    | getPosition => exact decode_of_op_9 hop
    | getTargetHr => exact decode_of_op_11 hop
    | getPositionHr => exact decode_of_op_12 hop
  subst hop
  simp only [hdec, decodeC, readAs, h.encode_eq, encodeC_fields_iff]

theorem FormatV.decode_eq {mk : Index → Half → Instr} (h : FormatV op mk) (hop : opField w = op) :
    decode w = readAs w (mk (numField w) (valField w)) := by
  have hdec : decode w = decodeV w mk := by
    cases h with
    | setTarget => exact decode_of_op_5 hop
    | setSpeed => exact decode_of_op_7 hop
    | setTargetHr => exact decode_of_op_10 hop
  subst hop
  simp only [hdec, decodeV, readAs, h.encode_eq, encodeV_fields_iff]

/-- With `op` 1, the `keep` bit selects the form (R84). -/
theorem decode_of_start (hop : opField w = 1#4) :
    decode w = readAs w (if w.extractLsb' 21 1 = 1#1 then .startKeep else listOfFields w) := by
  rw [decode_of_op_1 hop, decodeStart, ← listOfFields, readAs]
  by_cases hkeep : w.extractLsb' 21 1 = 1#1
  · simp only [hkeep, if_true, encode_startKeep_iff, hop, true_and]
    by_cases hz : w.extractLsb' 22 6 = 0#6 <;> simp [hz]
  · have hzero : w.extractLsb' 21 1 = 0#1 := BitVec.eq_zero_or_eq_one _ |>.resolve_right hkeep
    have hlist := encode_listOfFields_iff w
    simp only [hop, hzero, true_and, and_true] at hlist
    by_cases hz : w.extractLsb' 22 6 = 0#6 <;> simp [hz, hzero, hlist]

end Decoder

/-- The three answers of the decoder. -/
theorem decode_cases (w : CmdWord) :
    (opReserved (opField w) = true ∧ decode w = .error .eOpcode) ∨
    (opReserved (opField w) = false ∧ decode w = .error .eReserved) ∨
    ∃ i, encode i = w ∧ decode w = .ok i := by
  suffices h : opReserved (opField w) = true ∨ ∃ i, decode w = readAs w i by
    cases hr : opReserved (opField w) with
    | true => exact .inl ⟨rfl, decode_of_reserved_op hr⟩
    | false =>
      obtain ⟨i, hi⟩ := h.resolve_left (by simp [hr])
      by_cases he : encode i = w
      · exact .inr (.inr ⟨i, he, hi.trans (if_pos he)⟩)
      · exact .inr (.inl ⟨rfl, hi.trans (if_neg he)⟩)
  cases opHasFormat w with
  | reserved h => exact .inl h
  | start h => exact .inr ⟨_, decode_of_start h⟩
  | formatN h => exact .inr ⟨_, h.decode_eq rfl⟩
  | formatC h => exact .inr ⟨_, h.decode_eq rfl⟩
  | formatV h => exact .inr ⟨_, h.decode_eq rfl⟩

/-! ### The fields of an encoded word -/

theorem opField_encodeN (op : BitVec 4) : opField (encodeN op) = op := by
  rw [opField_eq_iff, encodeN_toNat]
  omega

theorem opField_encodeC (op : BitVec 4) (num : Index) : opField (encodeC op num) = op := by
  have := num.isLt
  rw [opField_eq_iff, encodeC_toNat]
  omega

theorem opField_encodeV (op : BitVec 4) (num : Index) (val : Half) : opField (encodeV op num val) = op := by
  have := num.isLt
  have := val.isLt
  rw [opField_eq_iff, encodeV_toNat]
  omega

theorem numField_encodeC (op : BitVec 4) (num : Index) : numField (encodeC op num) = num := by
  have := num.isLt
  rw [← BitVec.toNat_inj, numField_toNat, encodeC_toNat]
  omega

theorem numField_encodeV (op : BitVec 4) (num : Index) (val : Half) : numField (encodeV op num val) = num := by
  have := num.isLt
  have := val.isLt
  rw [← BitVec.toNat_inj, numField_toNat, encodeV_toNat]
  omega

theorem valField_encodeV (op : BitVec 4) (num : Index) (val : Half) : valField (encodeV op num val) = val := by
  have := val.isLt
  rw [← BitVec.toNat_inj, valField_toNat, encodeV_toNat]
  omega

theorem listOfFields_encode (n p0 p1 p2 p3 p4 p5 : Index) :
    listOfFields (encode (.startList n p0 p1 p2 p3 p4 p5)) = .startList n p0 p1 p2 p3 p4 p5 := by
  have := n.isLt
  have := p0.isLt
  have := p1.isLt
  have := p2.isLt
  have := p3.isLt
  have := p4.isLt
  have := p5.isLt
  simp only [listOfFields, Instr.startList.injEq, ← BitVec.toNat_inj, countField_toNat, pinField_toNat, encode,
    encodeS_toNat, BitVec.toNat_ofNat, Nat.reduceMul]
  omega

/-- The encoder loses nothing: the decoder reads each command back from its word. -/
theorem decode_encode (i : Instr) : decode (encode i) = .ok i := by
  suffices h : decode (encode i) = readAs (encode i) i from h.trans (readAs_encode i)
  cases i.hasFormat with
  | startList n p0 p1 p2 p3 p4 p5 =>
    obtain ⟨hop, -, hkeep⟩ := (encode_listOfFields_iff _).mp
      (congrArg encode (listOfFields_encode n p0 p1 p2 p3 p4 p5))
    rw [decode_of_start hop, if_neg (by simp [hkeep]), listOfFields_encode]
  | startKeep =>
    obtain ⟨hop, -, hkeep, -⟩ := (encode_startKeep_iff _).mp rfl
    rw [decode_of_start hop, if_pos hkeep]
  | formatN h =>
    rw [h.encode_eq]
    exact h.decode_eq (opField_encodeN _)
  | formatC h num =>
    rw [h.encode_eq, h.decode_eq (opField_encodeC _ num), numField_encodeC]
  | formatV h num val =>
    rw [h.encode_eq, h.decode_eq (opField_encodeV _ num val), numField_encodeV, valField_encodeV]

/-! ### The opcode table -/

/-- A command's word matches the command's row (R86). -/
theorem matches_encode (i : Instr) : Spec.Matches (encode i) i := by
  cases i with
  | startList n p0 p1 p2 p3 p4 p5 => exact Laws.MatchesTable.startList n p0 p1 p2 p3 p4 p5
  | startKeep => exact Laws.MatchesTable.startKeep
  | stop => exact Laws.MatchesTable.stop
  | isStarted => exact Laws.MatchesTable.isStarted
  | isMoving => exact Laws.MatchesTable.isMoving
  | setTarget num val => exact Laws.MatchesTable.setTarget num val
  | getTarget num => exact Laws.MatchesTable.getTarget num
  | setSpeed num val => exact Laws.MatchesTable.setSpeed num val
  | getSpeed num => exact Laws.MatchesTable.getSpeed num
  | getPosition num => exact Laws.MatchesTable.getPosition num
  | setTargetHr num val => exact Laws.MatchesTable.setTargetHr num val
  | getTargetHr num => exact Laws.MatchesTable.getTargetHr num
  | getPositionHr num => exact Laws.MatchesTable.getPositionHr num

theorem encode_listOfFields_of_mask {w : CmdWord} (h : w &&& 0xFFE00000#32 = 0x10000000#32) :
    encode (listOfFields w) = w := by
  replace h := congrArg BitVec.toNat h
  rw [and_maskS_toNat, BitVec.toNat_ofNat] at h
  rw [← BitVec.toNat_inj, encode_listOfFields_toNat]
  omega

theorem encodeC_of_mask {w : CmdWord} {op : BitVec 4} (h : w &&& 0xFFF8FFFF#32 = encodeN op) :
    encodeC op (numField w) = w := by
  replace h := congrArg BitVec.toNat h
  rw [and_maskC_toNat, encodeN_toNat] at h
  replace h : w.toNat / 2 ^ 19 = op.toNat * 2 ^ 9 ∧ w.toNat % 2 ^ 16 = 0 := by omega
  rw [← BitVec.toNat_inj, encodeC_toNat, numField_toNat]
  omega

theorem encodeV_of_mask {w : CmdWord} {op : BitVec 4} (h : w &&& 0xFFF80000#32 = encodeN op) :
    encodeV op (numField w) (valField w) = w := by
  replace h := congrArg BitVec.toNat h
  rw [and_maskV_toNat, encodeN_toNat] at h
  replace h : w.toNat / 2 ^ 19 = op.toNat * 2 ^ 9 := by omega
  rw [← BitVec.toNat_inj, encodeV_toNat, numField_toNat, valField_toNat]
  omega

/-- A word that matches a row is the word of a command of that row: the one of its own fields. -/
theorem exists_encode_of_matches {w : CmdWord} {i : Instr} (hw : Spec.Matches w i) :
    ∃ j, encode j = w ∧ j.tableRow = i.tableRow := by
  unfold Spec.Matches at hw
  cases i.hasFormat with
  | startList n p0 p1 p2 p3 p4 p5 => exact ⟨listOfFields w, encode_listOfFields_of_mask hw, rfl⟩
  | startKeep => exact ⟨.startKeep, ((BitVec.and_allOnes (x := w)).symm.trans hw).symm, rfl⟩
  | formatN h =>
    rw [h.tableRow_eq] at hw
    exact ⟨i, h.encode_eq.trans ((BitVec.and_allOnes (x := w)).symm.trans hw).symm, rfl⟩
  | @formatC _ mk h num =>
    rw [h.tableRow_eq] at hw
    exact ⟨mk (numField w), (h.encode_eq _).trans (encodeC_of_mask hw), by rw [h.tableRow_eq, h.tableRow_eq]⟩
  | @formatV _ mk h num val =>
    rw [h.tableRow_eq] at hw
    exact ⟨mk (numField w) (valField w), (h.encode_eq _ _).trans (encodeV_of_mask hw),
      by rw [h.tableRow_eq, h.tableRow_eq]⟩

/-- R89's reserved values, as numbers. -/
theorem opReserved_opField_iff (w : CmdWord) : opReserved (opField w) = true ↔
    w.toNat / 2 ^ 28 = 0x0 ∨ w.toNat / 2 ^ 28 = 0xD ∨ w.toNat / 2 ^ 28 = 0xE ∨ w.toNat / 2 ^ 28 = 0xF := by
  simp [opReserved, opField_eq_iff, or_assoc]

end Sys2Proof

/-! ## Proofs: the checks on a command's fields; the decoding procedure is the decoder, then these checks (R92, R183) -/

namespace Sys2Proof

open Sys2Proof.Machine

/-! ### The field checks -/

/-- The check of R110 or R130 that a command fails when `count` channels are configured. -/
def Instr.violation (count : Nat) : Instr → Option Violation
  | .startList n p0 p1 p2 p3 p4 p5 => startListViolation n [p0, p1, p2, p3, p4, p5]
  | .startKeep | .stop | .isStarted | .isMoving => none
  | .setTarget num _ | .getTarget num | .setSpeed num _ | .getSpeed num | .getPosition num | .setTargetHr num _
  | .getTargetHr num | .getPositionHr num => if num.toNat < count then none else some .eNum

/-- The command, unless a check on its fields fails. -/
def Instr.checked (count : Nat) (i : Instr) : Except Violation Instr := (i.violation count).elim (.ok i) .error

theorem Instr.checked_eq_error_iff {count : Nat} {i : Instr} {v : Violation} :
    i.checked count = .error v ↔ i.violation count = some v := by
  unfold Instr.checked
  cases i.violation count <;> simp

theorem Instr.checked_eq_ok_iff {count : Nat} {i j : Instr} :
    i.checked count = .ok j ↔ i = j ∧ i.violation count = none := by
  unfold Instr.checked
  cases i.violation count <;> simp

/-- The command accesses the channel `num` names: R130 is its only check, and what it does behind the check raises
nothing. -/
structure Instr.OnChannel (i : Instr) (num : Index) : Prop where
  violation_eq (count : Nat) : i.violation count = if num.toNat < count then none else some .eNum
  wellFormed_eq : i.wellFormed = servoEncodable num
  exec_eq (s : State) : ∃ k : Fin 6 → State, exec i s = .next (s.withChannel num k) ∧ ∀ j, (k j).viol = s.viol

section Formats

variable {op : BitVec 4}

theorem FormatC.onChannel {mk : Index → Instr} (h : FormatC op mk) (num : Index) : (mk num).OnChannel num := by
  cases h <;> exact ⟨fun _ => rfl, rfl, fun _ => ⟨_, rfl, fun _ => rfl⟩⟩

theorem FormatV.onChannel {mk : Index → Half → Instr} (h : FormatV op mk) (num : Index) (val : Half) :
    (mk num val).OnChannel num := by
  cases h <;> exact ⟨fun _ => rfl, rfl, fun _ => ⟨_, rfl, fun _ => rfl⟩⟩

theorem FormatN.violation_eq {i : Instr} (h : FormatN op i) (count : Nat) : i.violation count = none := by
  cases h <;> rfl

theorem FormatN.wellFormed {i : Instr} (h : FormatN op i) : WellFormed i := by
  cases h <;> rfl

theorem FormatN.exec_viol {i : Instr} (h : FormatN op i) (s : State) : ∃ t, exec i s = .next t ∧ t.viol = s.viol := by
  cases h with
  | stop => obtain ⟨-, h⟩ | ⟨-, -, h⟩ | ⟨-, -, h⟩ := execStop_cases s <;> exact ⟨_, h, rfl⟩
  | isStarted => exact ⟨_, rfl, rfl⟩
  | isMoving => exact ⟨_, rfl, rfl⟩

end Formats

section OnChannel

variable {i : Instr} {num : Index} {count : Nat} {s : State}

theorem Instr.OnChannel.checked_eq (h : i.OnChannel num) (count : Nat) :
    i.checked count = if num.toNat ≥ count then .error .eNum else .ok i := by
  rw [Instr.checked, h.violation_eq]
  by_cases hnum : num.toNat < count
  · simp [hnum]
  · simp [hnum, Nat.not_lt.mp hnum]

theorem Instr.OnChannel.violation_eq_none_iff (h : i.OnChannel num) : i.violation count = none ↔ num.toNat < count := by
  rw [h.violation_eq]
  split <;> simp [*]

theorem Instr.OnChannel.violation_eq_some_iff (h : i.OnChannel num) {v : Violation} :
    i.violation count = some v ↔ count ≤ num.toNat ∧ v = .eNum := by
  rw [h.violation_eq]
  split
  · simp [*]
  · simp [Nat.not_lt.mp ‹_›, eq_comm]

theorem Instr.OnChannel.exec_of_violation (h : i.OnChannel num) {v : Violation}
    (hv : i.violation s.count.toNat = some v) : exec i s = .next (s.raiseViolation v) := by
  obtain ⟨hnum, rfl⟩ := h.violation_eq_some_iff.mp hv
  obtain ⟨k, hk, -⟩ := h.exec_eq s
  rw [hk, s.withChannel_of_illegal k (.inl hnum)]

theorem Instr.OnChannel.wellFormed_of_no_violation (h : i.OnChannel num) (hcount : count ≤ 6)
    (hv : i.violation count = none) : WellFormed i := by
  have hnum := h.violation_eq_none_iff.mp hv
  simp only [WellFormed, h.wellFormed_eq, servoEncodable, decide_eq_true_eq]
  omega

theorem Instr.OnChannel.exec_viol (h : i.OnChannel num) (hcount : s.count.toNat ≤ 6)
    (hv : i.violation s.count.toNat = none) : ∃ t, exec i s = .next t ∧ t.viol = s.viol := by
  have hnum := h.violation_eq_none_iff.mp hv
  obtain ⟨k, hk, hviol⟩ := h.exec_eq s
  exact ⟨_, hk, by rw [s.withChannel_of_configured (i := ⟨num.toNat, by omega⟩) k rfl hnum, hviol]⟩

end OnChannel

/-- A command whose check fails is refused with the check's code (R181). -/
theorem exec_of_violation {i : Instr} {s : State} {v : Violation} (hv : i.violation s.count.toNat = some v) :
    exec i s = .next (s.raiseViolation v) := by
  cases i.hasFormat with
  | startList n p0 p1 p2 p3 p4 p5 =>
    obtain ⟨u, hu, h⟩ | ⟨hnone, -⟩ := execStartList_cases n p0 p1 p2 p3 p4 p5 s
    · obtain rfl : u = v := Option.some.inj (hu.symm.trans hv)
      exact h
    · cases hnone.symm.trans hv
  | startKeep => cases hv
  | formatN h => cases (h.violation_eq _).symm.trans hv
  | formatC h num => exact (h.onChannel num).exec_of_violation hv
  | formatV h num val => exact (h.onChannel num val).exec_of_violation hv

/-- A command whose checks pass for some `count` up to 6 has legal fields. -/
theorem wellFormed_of_no_violation {i : Instr} {count : Nat} (hcount : count ≤ 6) (hv : i.violation count = none) :
    WellFormed i := by
  cases i.hasFormat with
  | startList n p0 p1 p2 p3 p4 p5 =>
    obtain ⟨hn, hzero, hpin, hdup⟩ := (startListViolation_eq_none_iff n [p0, p1, p2, p3, p4, p5]).mp hv
    simp only [WellFormed, Instr.wellFormed, countLegal, unusedSlotsZero, listedPinsEligible, listedPinsDistinct,
      Bool.and_eq_true, List.all_eq_true, decide_eq_true_eq, beq_iff_eq]
    exact ⟨⟨⟨hn, hzero⟩, hpin⟩, hdup⟩
  | startKeep => rfl
  | formatN h => exact h.wellFormed
  | formatC h num => exact (h.onChannel num).wellFormed_of_no_violation hcount hv
  | formatV h num val => exact (h.onChannel num val).wellFormed_of_no_violation hcount hv

/-- A command whose checks pass raises nothing. -/
theorem exec_viol_of_no_violation {i : Instr} {s : State} (hcount : s.count.toNat ≤ 6)
    (hv : i.violation s.count.toNat = none) : ∃ t, exec i s = .next t ∧ t.viol = s.viol := by
  cases i.hasFormat with
  | startList n p0 p1 p2 p3 p4 p5 =>
    obtain ⟨u, hu, -⟩ | ⟨-, h⟩ := execStartList_cases n p0 p1 p2 p3 p4 p5 s
    · cases hu.symm.trans hv
    · exact ⟨_, h, by simp⟩
  | startKeep => exact ⟨_, rfl, by simp⟩
  | formatN h => exact h.exec_viol s
  | formatC h num => exact (h.onChannel num).exec_viol hcount hv
  | formatV h num val => exact (h.onChannel num val).exec_viol hcount hv

/-! ### START.LIST's checks over slot numbers -/

theorem exists_mem_drop_ofFn (p : Fin 6 → Index) (n : Nat) (P : Index → Prop) :
    (∃ x ∈ (List.ofFn p).drop n, P x) ↔ ∃ j : Fin 6, n ≤ j.val ∧ P (p j) := by
  simp only [List.mem_drop_iff_getElem, List.getElem_ofFn, List.length_ofFn]
  constructor
  · rintro ⟨_, ⟨k, hk, rfl⟩, hx⟩
    exact ⟨_, Nat.le_add_right n k, hx⟩
  · rintro ⟨j, hj, hx⟩
    refine ⟨_, ⟨j.val - n, by omega, rfl⟩, ?_⟩
    simpa [Nat.add_sub_cancel' hj] using hx

theorem exists_mem_take_ofFn (p : Fin 6 → Index) (n : Nat) (P : Index → Prop) :
    (∃ x ∈ (List.ofFn p).take n, P x) ↔ ∃ j : Fin 6, j.val < n ∧ P (p j) := by
  simp only [List.mem_take_iff_getElem, List.getElem_ofFn, List.length_ofFn]
  constructor
  · rintro ⟨_, ⟨k, hk, rfl⟩, hx⟩
    exact ⟨_, by simp; omega, hx⟩
  · rintro ⟨j, hj, hx⟩
    exact ⟨_, ⟨j.val, by omega, rfl⟩, hx⟩

theorem not_nodup_take_ofFn (p : Fin 6 → Index) (n : Nat) :
    ¬((List.ofFn p).take n).Nodup ↔ ∃ j k : Fin 6, j < k ∧ k.val < n ∧ p j = p k := by
  simp only [List.Nodup, List.pairwise_iff_getElem, List.getElem_take, List.getElem_ofFn, List.length_take,
    List.length_ofFn]
  push Not
  constructor
  · rintro ⟨j, k, hj, hk, hlt, h⟩
    exact ⟨⟨j, by omega⟩, ⟨k, by omega⟩, hlt, by simp; omega, h⟩
  · rintro ⟨j, k, hlt, hk, h⟩
    exact ⟨j, k, by omega, by omega, hlt, h⟩

/-- R110's checks as R92 writes them, on the numbers in the slots. -/
theorem startListViolation_ofFn (n : Index) (p : Fin 6 → Index) :
    startListViolation n (List.ofFn p) =
      if n.toNat = 0 ∨ n.toNat = 7 then some .eCount
      else if ∃ j : Fin 6, n.toNat ≤ j.val ∧ (p j).toNat ≠ 0 then some .eReserved
      else if ∃ j : Fin 6, j.val < n.toNat ∧ (p j).toNat > 5 then some .ePin
      else if ∃ j k : Fin 6, j < k ∧ k.val < n.toNat ∧ (p j).toNat = (p k).toNat then some .eDup
      else none := by
  have hcount : ¬(1 ≤ n.toNat ∧ n.toNat ≤ 6) ↔ n.toNat = 0 ∨ n.toNat = 7 := by
    have := n.isLt
    omega
  have hzero (x : Index) : x ≠ 0 ↔ x.toNat ≠ 0 := (BitVec.toNat_inj (y := 0)).symm.not
  simp only [startListViolation, hcount, List.any_eq_true, bne_iff_ne, decide_eq_true_eq, exists_mem_drop_ofFn,
    exists_mem_take_ofFn, not_nodup_take_ofFn, hzero, BitVec.toNat_inj]

/-! ### The decoding procedure -/

theorem ofNat_numField (w : CmdWord) : BitVec.ofNat 3 (w.toNat / 2 ^ 16 % 8) = numField w := by
  rw [← numField_toNat, BitVec.ofNat_toNat, BitVec.setWidth_eq]

theorem ofNat_valField (w : CmdWord) : BitVec.ofNat 16 (w.toNat % 2 ^ 16) = valField w := by
  rw [← valField_toNat, BitVec.ofNat_toNat, BitVec.setWidth_eq]

theorem ofNat_countField (w : CmdWord) : BitVec.ofNat 3 (w.toNat / 2 ^ 18 % 8) = countField w := by
  rw [← countField_toNat, BitVec.ofNat_toNat, BitVec.setWidth_eq]

theorem slot_eq_pinField (w : CmdWord) (j : Nat) : Spec.slot w.toNat j = (pinField w j).toNat :=
  (pinField_toNat w j).symm

/-! The powers of two stay as the field lemmas write them: hence `-Nat.reducePow` below. -/

section Procedure

variable {op : BitVec 4} {w : CmdWord} (count : Nat)

theorem decodeProcedure_of_reserved (h : opReserved (opField w) = true) :
    Spec.decodeProcedure w.toNat count = .error .eOpcode :=
  if_pos ((opReserved_opField_iff w).mp h)

theorem FormatN.decodeProcedure_eq {i : Instr} (h : FormatN op i) (hop : opField w = op) :
    Spec.decodeProcedure w.toNat count = if w.toNat % 2 ^ 28 ≠ 0 then .error .eReserved else .ok i := by
  rw [opField_eq_iff] at hop
  cases h <;> simp [Spec.decodeProcedure, hop, -Nat.reducePow, -BitVec.toNat_ofNat]

theorem FormatC.decodeProcedure_eq {mk : Index → Instr} (h : FormatC op mk) (hop : opField w = op) :
    Spec.decodeProcedure w.toNat count =
      if w.toNat / 2 ^ 19 % 2 ^ 9 ≠ 0 then .error .eReserved
      else if w.toNat % 2 ^ 16 ≠ 0 then .error .eReserved
      else if (numField w).toNat ≥ count then .error .eNum else .ok (mk (numField w)) := by
  rw [opField_eq_iff] at hop
  cases h <;> simp [Spec.decodeProcedure, hop, -Nat.reducePow, -BitVec.toNat_ofNat, ofNat_numField, numField_toNat]

theorem FormatV.decodeProcedure_eq {mk : Index → Half → Instr} (h : FormatV op mk) (hop : opField w = op) :
    Spec.decodeProcedure w.toNat count =
      if w.toNat / 2 ^ 19 % 2 ^ 9 ≠ 0 then .error .eReserved
      else if (numField w).toNat ≥ count then .error .eNum else .ok (mk (numField w) (valField w)) := by
  rw [opField_eq_iff] at hop
  cases h <;> simp [Spec.decodeProcedure, hop, -Nat.reducePow, -BitVec.toNat_ofNat, ofNat_numField, ofNat_valField,
    numField_toNat]

/-- START.LIST of a word's fields is checked on the word's slots. -/
theorem listOfFields_checked (w : CmdWord) :
    (listOfFields w).checked count =
      (startListViolation (countField w) (List.ofFn fun j : Fin 6 => pinField w j)).elim (.ok (listOfFields w)) .error :=
  rfl

theorem decodeProcedure_of_start (hop : opField w = 1#4) :
    Spec.decodeProcedure w.toNat count =
      if w.extractLsb' 22 6 ≠ 0#6 then .error .eReserved
      else if w.extractLsb' 21 1 = 1#1 then
        if w.extractLsb' 0 21 = 0#21 then .ok .startKeep else .error .eReserved
      else (listOfFields w).checked count := by
  rw [opField_eq_iff] at hop
  simp only [listOfFields_checked, startListViolation_ofFn,
    apply_ite fun o => Option.elim o (Except.ok (listOfFields w)) Except.error, Option.elim_some, Option.elim_none]
  simp [Spec.decodeProcedure, hop, -Nat.reducePow, -BitVec.toNat_ofNat, extractLsb'_eq_iff, slot_eq_pinField,
    ← countField_toNat, listOfFields]

end Procedure

theorem readAs_bind (w : CmdWord) (i : Instr) (f : Instr → Except Violation Instr) :
    (readAs w i).bind f = if encode i = w then f i else .error .eReserved := by
  unfold readAs
  split <;> rfl

/-- R92's procedure is the decoder followed by the checks on the fields. -/
theorem decodeProcedure_eq (w : CmdWord) (count : Nat) :
    Spec.decodeProcedure w.toNat count = (decode w).bind (Instr.checked count) := by
  cases opHasFormat w with
  | reserved h => exact (decodeProcedure_of_reserved count h).trans (by rw [decode_of_reserved_op h]; rfl)
  | start h =>
    rw [decodeProcedure_of_start count h, decode_of_op_1 h, decodeStart]
    split_ifs <;> rfl
  | formatN h =>
    rw [h.decodeProcedure_eq count rfl, h.decode_eq rfl, readAs_bind, h.encode_eq]
    simp [encodeN_opField_iff, extractLsb'_eq_iff, Instr.checked, h.violation_eq]
  | formatC h =>
    rw [h.decodeProcedure_eq count rfl, h.decode_eq rfl, readAs_bind, h.encode_eq, (h.onChannel _).checked_eq]
    simp [encodeC_fields_iff, extractLsb'_eq_iff, ite_and]
  | formatV h =>
    rw [h.decodeProcedure_eq count rfl, h.decode_eq rfl, readAs_bind, h.encode_eq, (h.onChannel _ _).checked_eq]
    simp [encodeV_fields_iff, extractLsb'_eq_iff]

end Sys2Proof

/-! ## Proofs: the statements on encoding, decoding and answering -/

namespace Sys2Proof.Proofs

open Sys2Proof Sys2Proof.Machine

/-- Settles O1: a command's word carries its fields, and the decoder reads the command of a word's own fields. -/
theorem encodeThenDecodeIsIdentity : Obligations.EncodeThenDecodeIsIdentity := decode_encode

/-- Settles O2: the decoder answers a command only on that command's word. -/
theorem decodedWordIsItsEncoding : Obligations.DecodedWordIsItsEncoding := by
  intro w i hi
  obtain ⟨-, h⟩ | ⟨-, h⟩ | ⟨j, hj, h⟩ := decode_cases w
  · simp [h] at hi
  · simp [h] at hi
  · obtain rfl : j = i := by simpa [h] using hi
    exact hj

/-- Settles O3: a row's words are the words of its commands, so the round trips decide which words decode. -/
theorem opcodeTableSelectsTheCommand : Obligations.OpcodeTableSelectsTheCommand := by
  refine ⟨fun w i hw => ?matching, fun w i hi => ?decoded, fun w hno => ?refused⟩
  case matching =>
    obtain ⟨j, rfl, hrow⟩ := exists_encode_of_matches hw
    exact ⟨j, decode_encode j, hrow⟩
  case decoded => exact decodedWordIsItsEncoding w i hi ▸ matches_encode i
  case refused =>
    simp only [← opReserved_opField_iff]
    obtain ⟨hr, h⟩ | ⟨hr, h⟩ | ⟨i, rfl, -⟩ := decode_cases w
    · simp [hr, h]
    · simp [hr, h]
    · exact absurd (matches_encode i) (hno i)

/-- Settles O5: the procedure is the decoder and then the command's own checks, and so is the command step. -/
theorem commandStepFollowsDecodingProcedure : Obligations.CommandStepFollowsDecodingProcedure := by
  intro s w hready hcount
  rw [State.commandStep_of_ready hready, decodeProcedure_eq]
  cases hw : decode w with
  | error u =>
    rw [State.acceptCommand_of_decode_error hw]
    refine ⟨fun v hv => ?_, fun i hi => ?_⟩
    · cases hv
      rfl
    · cases hi
  | ok j =>
    rw [State.acceptCommand_of_decode_ok hw]
    refine ⟨fun v hv => exec_of_violation (Instr.checked_eq_error_iff.mp hv), fun i hi => ?_⟩
    obtain ⟨rfl, hnone⟩ := Instr.checked_eq_ok_iff.mp hi
    exact ⟨rfl, wellFormed_of_no_violation hcount hnone, rfl, exec_viol_of_no_violation hcount hnone⟩

/-- Settles O4: each word is the word of its command. -/
theorem writtenWordsDecode : Obligations.WrittenWordsDecode :=
  ⟨decode_encode (.startList 4 3 1 4 0 0 0), decode_encode .startKeep, decode_encode .stop,
    decode_encode (.setTarget 1 2500), decode_encode (.setSpeed 0 200), decode_encode (.getPosition 1),
    decode_encode (.setTargetHr 2 36000), decode_encode (.getPositionHr 5)⟩

/-- Settles O20: of the effects a command can have, only a waiting STOP leaves the port's response as it was. -/
theorem everyCommandAnswersOrStopWaits : Obligations.EveryCommandAnswersOrStopWaits := by
  intro i s
  by_cases hstop : i = .stop
  · subst hstop
    obtain ⟨-, h⟩ | ⟨-, -, h⟩ | ⟨hs, hq, h⟩ := execStop_cases s
    · exact ⟨_, h, .inl ⟨_, rfl, fun _ => rfl⟩⟩
    · exact ⟨_, h, .inl ⟨_, rfl, fun _ => rfl⟩⟩
    · exact ⟨_, h, .inr ⟨rfl, hs, hq, rfl, rfl⟩⟩
  · obtain ⟨t, ht⟩ := exec_next i s
    refine ⟨t, ht, .inl ?_⟩
    cases exec_effectOf ht with
    | refused v => exact ⟨_, rfl, fun _ => rfl⟩
    | answered d => exact ⟨_, rfl, absurd rfl⟩
    | listed n slots => exact ⟨_, rfl, fun _ => rfl⟩
    | enabled => exact ⟨_, rfl, fun _ => rfl⟩
    | stopped hi => exact absurd hi hstop
    | stopWaits hi => exact absurd hi hstop
    | targetSet j tt => exact ⟨_, rfl, fun _ => rfl⟩
    | speedSet j v => exact ⟨_, rfl, fun _ => rfl⟩

end Sys2Proof.Proofs

/-! ## Proofs: runs of several steps, by their first and by their last step -/

namespace Sys2Proof.Machine

section Runs

variable {M : Host.Core} {s t u : M.State}

theorem run_succ_of_step (h : M.step s = .next t) (k : Nat) : M.run (k + 1) s = M.run k t := by
  rw [Host.Core.run, h]

theorem run_one (s : M.State) : M.run 1 s = M.step s := by
  rw [Host.Core.run]
  cases M.step s <;> rfl

theorem run_succ_of_next {k : Nat} (h : M.run k s = .next u) : M.run (k + 1) s = M.step u := by
  induction k generalizing s with
  | zero =>
    obtain rfl : s = u := Host.Outcome.next.inj h
    exact run_one s
  | succ k ih =>
    cases hs : M.step s with
    | next t =>
      rw [run_succ_of_step hs] at h ⊢
      exact ih h
    | fault r => simp [Host.Core.run, hs] at h
    | refused r => simp [Host.Core.run, hs] at h

/-- States whose next steps are the same run alike. -/
theorem run_succ_congr (h : M.step s = M.step t) (k : Nat) : M.run (k + 1) s = M.run (k + 1) t := by
  rw [Host.Core.run, Host.Core.run, h]

end Runs

end Sys2Proof.Machine

/-! ## Proofs: the drain of a pending STOP (R114, R115, R159) -/

namespace Sys2Proof.Machine

/-- An edge of a block with a STOP pending is a bare tick, whatever word is presented (R29). -/
theorem step_of_pending {s : State} (hp : s.stopPending = true) {v : Bool} {w : CmdWord} {rest : List HostInput}
    (hin : s.hostInputs = .edge false v w :: rest) : step s = .next (s.beginStep rest).tick := by
  rw [step_of_input hin]
  exact State.clockEdge_of_not_accepted (s := s.beginStep rest) (.inr hp) w

theorem State.PlainEdges.step_eq_tick {s : State} (h : s.PlainEdges) (hp : s.stopPending = true) :
    step s = .next (s.beginStep s.hostInputs.tail).tick := by
  cases hin : s.hostInputs with
  | nil => simp [step, hin, takeInput, State.runInput, State.clockEdge]
  | cons x rest =>
    obtain ⟨v, w, rfl⟩ := h x (by simp [hin])
    exact step_of_pending hp hin

/-- An edge that presents a command to a ready port runs it and then the tick (R63). -/
theorem step_of_accepted {s u : State} {i : Instr} {rest : List HostInput} (hready : s.stopPending = false)
    (hin : s.hostInputs = .edge false true (encode i) :: rest) (hexec : exec i (s.beginStep rest) = .next u) :
    step s = .next u.tick :=
  calc step s = (s.beginStep rest).clockEdge false true (encode i) := step_of_input hin
    _ = thenTick (exec i (s.beginStep rest)) := by
      rw [State.clockEdge_of_ready (s := s.beginStep rest) hready, State.acceptCommand_of_decode_ok (decode_encode i)]
    _ = .next u.tick := by rw [hexec, thenTick]

/-- The edge that accepts a STOP with a pulse in flight goes as if the STOP had been pending before it (R63, R114). -/
theorem step_of_stop_waits {s : State} {rest : List HostInput} (hs : s.started = true) (hq : s.fq ≠ [])
    (hready : s.stopPending = false) (hin : s.hostInputs = .edge false true (encode .stop) :: rest) :
    step s = step { s with stopPending := true } := by
  have hexec : exec .stop (s.beginStep rest) = .next { s.beginStep rest with stopPending := true } := by
    obtain ⟨hs', -⟩ | ⟨-, hq', -⟩ | ⟨-, -, h⟩ := execStop_cases (s.beginStep rest)
    · exact absurd (hs.symm.trans hs') (by decide)
    · exact absurd hq' hq
    · exact h
  rw [step_of_accepted hready hin hexec, step_of_pending (s := { s with stopPending := true }) rfl hin]
  rfl

section Drain

variable {s0 s : State} {e : FallEvent}

/-- Of a block with the invariants, fall service removes exactly the falls that are due (R158). -/
theorem State.Inv.serviceFalls_fq_eq_filter (h : s.Inv) :
    (s.serviceFalls s.phase).fq = s.fq.filter fun a => decide (a.t.toNat ≠ s.phase) :=
  serviceLoop_fst_of_sorted h.fq_sorted fun a ha => (h.fq_phase a ha).2.2

/-- Fall service before the last fall's time leaves that fall the last one. -/
theorem State.Inv.serviceFalls_getLast? (h : s.Inv) (hlast : s.fq.getLast? = some e) (hlt : s.phase < e.t.toNat) :
    (s.serviceFalls s.phase).fq.getLast? = some e := by
  obtain ⟨l, hfq⟩ := List.getLast?_eq_some_iff.mp hlast
  have hkept : e.t.toNat ≠ s.phase := hlt.ne'
  simp [h.serviceFalls_fq_eq_filter, hfq, hkept, -State.serviceFalls_fq]

/-- Fall service at the last fall's time empties the queue. -/
theorem State.Inv.serviceFalls_fq_eq_nil (h : s.Inv) (hlast : s.fq.getLast? = some e) (heq : s.phase = e.t.toNat) :
    (s.serviceFalls s.phase).fq = [] := by
  obtain ⟨l, hfq⟩ := List.getLast?_eq_some_iff.mp hlast
  have hsorted := h.fq_sorted
  rw [hfq, List.pairwise_append] at hsorted
  obtain ⟨-, -, hle⟩ := hsorted
  rw [h.serviceFalls_fq_eq_filter, List.filter_eq_nil_iff]
  intro a ha
  obtain ⟨-, -, hge⟩ := h.fq_phase a ha
  have hlate : a.t.toNat ≤ e.t.toNat := by
    rw [hfq, List.mem_append, List.mem_singleton] at ha
    obtain ha | rfl := ha
    · exact hle a ha e (List.mem_singleton.mpr rfl)
    · exact le_rfl
  have hdue : a.t.toNat = s.phase := by omega
  simp [hdue]

/-- What STOP leaves as it is for a later START.KEEP, `pin_oe` with it (R115). -/
def State.config (s : State) : Table × Index × Bool × BitVec 6 := (s.table, s.count, s.moving, s.pinOe)

/-- The tick of a block with a STOP pending is no PeriodStart, so it leaves what STOP leaves (R150). -/
theorem State.tick_config_of_pending (hp : s.stopPending = true) : s.tick.config = s.config := by
  obtain ⟨hchan, hmoving, -⟩ := State.tick_of_not_periodStart (s := s) (by simp [hp])
  obtain ⟨hcount, hoe, -⟩ := s.tick_frame
  simp only [State.config, Table.ext_get hchan, hcount, hmoving, hoe]

/-- `s` is a state in the drain of a STOP that was accepted in the state `s0`: the STOP waits, and `e` is the last fall
to come. -/
structure State.Drains (s0 : State) (e : FallEvent) (s : State) : Prop where
  inv : s.Inv
  plain : s.PlainEdges
  pending : s.stopPending = true
  last : s.fq.getLast? = some e
  config_eq : s.config = s0.config

theorem State.Drains.beginStep (h : Drains s0 e s) : Drains s0 e (s.beginStep s.hostInputs.tail) :=
  ⟨h.inv.beginStep _, fun x hx => h.plain x (List.mem_of_mem_tail hx), h.pending, h.last, h.config_eq⟩

theorem State.Drains.tick_fq (h : Drains s0 e s) : s.tick.fq = (s.serviceFalls s.phase).fq :=
  State.tick_fq_of_service (h.inv.stop_pending h.pending).1 (.inr h.pending)

/-- Before the last fall's time a tick of the drain leaves the STOP waiting for it (R159). -/
theorem State.Drains.tick_waits (h : Drains s0 e s) (hlt : s.phase < e.t.toNat) :
    Drains s0 e s.tick ∧ s.tick.phase = s.phase + 1 ∧ s.tick.rsp = s.rsp := by
  have hlast : s.tick.fq.getLast? = some e := h.tick_fq ▸ h.inv.serviceFalls_getLast? h.last hlt
  obtain ⟨-, -, -, hnil, -⟩ | ⟨hs, hp, hrsp⟩ := s.tick_ends_drain_or_keeps
  · simp [hnil] at hlast
  obtain ⟨-, -, -, hinputs, -⟩ := s.tick_frame
  obtain ⟨hstarted, -⟩ := h.inv.stop_pending h.pending
  obtain ⟨hphase, -⟩ := State.tick_timeline_of_started (hs.trans hstarted) h.inv.wrap_le
  obtain ⟨-, hle, -⟩ := h.inv.fq_range e (List.mem_of_getLast? h.last)
  refine ⟨⟨h.inv.tick, ?_, hp.trans h.pending, hlast, ?_⟩, by omega, hrsp⟩
  · rw [State.PlainEdges, hinputs]
    exact h.plain
  · exact (State.tick_config_of_pending h.pending).trans h.config_eq

/-- At the last fall's time the tick completes the STOP (R159). -/
theorem State.Drains.tick_completes (h : Drains s0 e s) (heq : s.phase = e.t.toNat) :
    s.tick.started = false ∧ s.tick.rsp = some ⟨none, 0⟩ := by
  have hnil : s.tick.fq = [] := h.tick_fq ▸ h.inv.serviceFalls_fq_eq_nil h.last heq
  obtain ⟨-, hs, -, -, hrsp⟩ | ⟨-, hp, -⟩ := s.tick_ends_drain_or_keeps
  · exact ⟨hs, hrsp⟩
  · exact absurd hnil (h.inv.tick.stop_pending (hp.trans h.pending)).2

theorem State.Drains.step_waits (h : Drains s0 e s) (hlt : s.phase < e.t.toNat) :
    ∃ u, step s = .next u ∧ Drains s0 e u ∧ u.phase = s.phase + 1 ∧ u.rsp = none :=
  ⟨_, h.plain.step_eq_tick h.pending, h.beginStep.tick_waits hlt⟩

theorem State.Drains.step_completes (h : Drains s0 e s) (heq : s.phase = e.t.toNat) :
    ∃ u, step s = .next u ∧ u.Inv ∧ u.config = s0.config ∧ u.started = false ∧ u.rsp = some ⟨none, 0⟩ :=
  ⟨_, h.plain.step_eq_tick h.pending, h.beginStep.inv.tick,
    (State.tick_config_of_pending h.beginStep.pending).trans h.config_eq, h.beginStep.tick_completes heq⟩

/-- The drain goes on, edge by edge, up to the last fall's time. -/
theorem State.Drains.runs_waits (h : Drains s0 e s) {j : Nat} (hj : s.phase + j ≤ e.t.toNat) :
    ∃ u, runs j s = .next u ∧ Drains s0 e u ∧ u.phase = s.phase + j := by
  induction j with
  | zero => exact ⟨s, rfl, h, (Nat.add_zero _).symm⟩
  | succ j ih =>
    obtain ⟨u, hrun, hu, hphase⟩ := ih (by omega)
    obtain ⟨t, hstep, ht, hnext, -⟩ := hu.step_waits (by omega)
    exact ⟨t, (run_succ_of_next hrun).trans hstep, ht, by omega⟩

end Drain

end Sys2Proof.Machine

/-! ## Proofs: a command's field checks, as R110 and R130 word them -/

namespace Sys2Proof.Machine

/-- R110's checks as the rule words them: each says what a valid list satisfies. -/
theorem startListViolation_ofFn_eq (n : Index) (p : Fin 6 → Index) :
    startListViolation n (List.ofFn p) =
      if ¬(1 ≤ n.toNat ∧ n.toNat ≤ 6) then some .eCount
      else if ¬∀ j : Fin 6, n.toNat ≤ j.val → p j = 0 then some .eReserved
      else if ¬∀ j : Fin 6, j.val < n.toNat → (p j).toNat ≤ 5 then some .ePin
      else if ¬∀ j k : Fin 6, j < k → k.val < n.toNat → p j ≠ p k then some .eDup
      else none := by
  simp only [startListViolation, List.any_eq_true, bne_iff_ne, decide_eq_true_eq, exists_mem_drop_ofFn,
    exists_mem_take_ofFn, not_nodup_take_ofFn]
  push Not
  rfl

theorem startListViolation_of_valid {n : Index} {p : Fin 6 → Index} (h : Spec.ListValid n p) :
    startListViolation n (List.ofFn p) = none := by
  obtain ⟨hn, hz, hp, hd⟩ := h
  rw [startListViolation_ofFn_eq, if_neg (not_not.mpr hn), if_neg (not_not.mpr hz), if_neg (not_not.mpr hp),
    if_neg (not_not.mpr hd)]

/-- A list is refused by one of the four codes of R110. -/
theorem startListViolation_codes {n : Index} {slots : List Index} {v : Violation}
    (h : startListViolation n slots = some v) : v = .eCount ∨ v = .eReserved ∨ v = .ePin ∨ v = .eDup := by
  unfold startListViolation at h
  split_ifs at h <;> cases h <;> decide

/-- A channel command with illegal fields names servo 6 or 7, which no `count` admits (R130). -/
theorem exec_of_not_wellFormed_onChannel {i : Instr} {num : Index} (h : i.OnChannel num) (hbad : ¬WellFormed i)
    (s : State) : exec i s = .next (s.raiseViolation .eNum) := by
  obtain ⟨k, hk, -⟩ := h.exec_eq s
  have hnum : 5 < num.toNat := by simpa [WellFormed, h.wellFormed_eq, servoEncodable] using hbad
  rw [hk, s.withChannel_of_illegal k (.inr hnum)]

end Sys2Proof.Machine

/-! ## Proofs: what a START makes of the block: the configured table, the timer, the pass of the first PeriodStart
(R111, R113, R152) -/

namespace Sys2Proof.Machine

theorem State.configure_ofFn_chan (s : State) (n : Index) (p : Fin 6 → Index) (i : Fin 6) :
    (s.configure n (List.ofFn p)).chan i = ⟨if i.val < n.toNat then p i else 0, 0, 0, 0⟩ := by
  rw [State.configure_chan, List.getD_eq_getElem _ _ (by simp), List.getElem_ofFn]
  rfl

theorem State.configure_ofFn_pinOe (s : State) (n : Index) (p : Fin 6 → Index) (q : Fin 6) :
    (s.configure n (List.ofFn p)).pinOe.getLsbD q.val = true ↔
      s.pinOe.getLsbD q.val = true ∨ ∃ j : Fin 6, j.val < n.toNat ∧ (p j).toNat = q.val := by
  rw [State.configure_pinOe, getLsbD_foldl_pinSet _ _ _ q.isLt]
  simp only [Bool.or_eq_true, List.any_eq_true, decide_eq_true_eq, exists_mem_take_ofFn]

theorem State.enableTimer_of_stopped {s : State} (h : s.started = false) :
    s.enableTimer = { s with started := true, cnt := 0, wrap := 0 } := by
  simp [State.enableTimer, h]

/-- Enabling the timer writes `started`, `cnt` and `wrap` only (R113). -/
theorem State.enableTimer_eq (s : State) :
    s.enableTimer = { s with started := true, cnt := s.enableTimer.cnt, wrap := s.enableTimer.wrap } := by
  cases hs : s.started
  · rw [State.enableTimer_of_stopped hs]
  · rw [State.enableTimer_of_started hs, ← hs]

/-- R155 in numbers: one channel's step fits in 16 bits. -/
theorem Channel.interpolate_position_toNat (c : Channel) : c.interpolate.position.toNat = Spec.afterPass c := by
  have hp := c.position.isLt
  have ht := c.target.isLt
  have hval : nextPosition c.position.toNat c.target.toNat c.speed.toNat = Spec.afterPass c := by
    unfold nextPosition Spec.afterPass
    split_ifs <;> omega
  have hlt : Spec.afterPass c < 2 ^ 16 := by
    unfold Spec.afterPass
    split_ifs <;> omega
  rw [← hval] at hlt ⊢
  exact Nat.mod_eq_of_lt hlt

theorem afterPass_of_not_differs {c : Channel} (h : c.differs = false) : Spec.afterPass c = c.position.toNat := by
  have heq : c.position = c.target := by simpa [Channel.differs] using h
  simp [Spec.afterPass, heq]

/-- A pass moves every configured channel by R155; one that is at its target has nowhere to go. -/
theorem State.interpolate_chan_position {s : State} {i : Fin 6} (hi : s.Configured i) :
    (s.interpolate.chan i).position.toNat = Spec.afterPass (s.chan i) := by
  rw [State.interpolate_chan]
  cases hd : (s.chan i).differs
  · simp [hi, afterPass_of_not_differs hd]
  · simp [hi, Channel.interpolate_position_toNat]

theorem State.interpolate_chan_of_unused {s : State} {i : Fin 6} (hi : ¬s.Configured i) :
    s.interpolate.chan i = s.chan i := by
  simp [State.interpolate_chan, hi]

theorem State.interpolate_chan_eq (s : State) (i : Fin 6) :
    s.interpolate.chan i = { s.chan i with position := (s.interpolate.chan i).position } := by
  rw [State.interpolate_chan]
  split <;> rfl

/-- In a block with the invariants the entries past `count` are zero, so R155 says what the pass makes of them too. -/
theorem State.Inv.interpolate_chan_position {s : State} (h : s.Inv) (i : Fin 6) :
    (s.interpolate.chan i).position.toNat = Spec.afterPass (s.chan i) := by
  by_cases hi : s.Configured i
  · exact State.interpolate_chan_position hi
  · rw [State.interpolate_chan_of_unused hi, h.unused_zero i hi]
    rfl

/-- From a block with every pin low, a PeriodStart raises exactly the pins of the channels with a width (R156). -/
theorem State.Inv.periodStart_pinHigh {s : State} (h : s.Inv) (h0 : s.phase = 0) (q : Fin 6) :
    s.interpolate.emitEdges.pinHigh q.val = true ↔
      ∃ i : Fin 6, s.Configured i ∧ (s.chan i).pin.toNat = q.val ∧ 0 < Spec.afterPass (s.chan i) := by
  have hlow : s.interpolate.pinOut = 0 := (h.flightInv.fq_eq_nil_of_phase h0 ▸ h.queueInv).pinOut_eq_zero
  have hpin (i : Fin 6) : (s.interpolate.chan i).pin = (s.chan i).pin := (s.interpolate_chan_frame i).1
  rw [State.pinHigh, State.emitEdges_pinOut_getLsbD _ q.isLt, hlow]
  simp only [BitVec.ofNat_eq_ofNat, BitVec.getLsbD_zero, Bool.false_eq_true, false_or]
  constructor
  · rintro ⟨e, he, hq⟩
    obtain ⟨i, hi, hpos, rfl⟩ := State.mem_emitEdges_fq.mp he
    exact ⟨i, hi, hpin i ▸ hq, h.interpolate_chan_position i ▸ half_toNat_pos hpos⟩
  · rintro ⟨i, hi, hq, hpos⟩
    rw [← h.interpolate_chan_position i] at hpos
    refine ⟨_, State.mem_emitEdges_fq.mpr ⟨i, hi, fun h0 => ?_, rfl⟩, (hpin i).symm ▸ hq⟩
    simp [h0] at hpos

end Sys2Proof.Machine

/-! ## Proofs: the statements on the lifecycle and status commands (R110 to R119) -/

namespace Sys2Proof.Proofs

open Sys2Proof Sys2Proof.Machine

/-- Settles O47: the accepting edge is already an edge of the drain, which ends on the edge of the last fall. -/
theorem stopCompletesWhenTheLastPulseEnds : Obligations.StopCompletesWhenTheLastPulseEnds := by
  intro s rest e hinv hplain hready hin hlast k
  have hmem : e ∈ s.fq := List.mem_of_getLast? hlast
  obtain ⟨hs, hpos, hle⟩ := hinv.fq_phase e hmem
  obtain ⟨-, hmax, -⟩ := hinv.fq_range e hmem
  have hq : s.fq ≠ [] := List.ne_nil_of_mem hmem
  let d : State := { s with stopPending := true }
  have hd : State.Drains s e d :=
    ⟨(State.CommandEffect.stopWaits hs hq).inv hinv, hplain, rfl, hlast, rfl⟩
  have hfirst : step s = step d := step_of_stop_waits hs hq hready hin
  have hrun (j : Nat) (hj : j ≤ k) :
      ∃ u, runs (j + 1) s = step u ∧ State.Drains s e u ∧ u.phase = s.phase + j := by
    obtain ⟨u, hu, hdu, hphase⟩ := hd.runs_waits (j := j) (show s.phase + j ≤ _ by omega)
    exact ⟨u, (run_succ_congr hfirst j).trans (run_succ_of_next hu), hdu, hphase⟩
  refine ⟨by omega, fun j hj => ?waits, ?completes⟩
  case waits =>
    obtain ⟨u, hu, hdu, hphase⟩ := hrun j hj.le
    obtain ⟨t, ht, hdt, -, hrsp⟩ := hdu.step_waits (by omega)
    exact ⟨t, hu.trans ht, (hdt.inv.stop_pending hdt.pending).1, hdt.pending, hrsp⟩
  case completes =>
    obtain ⟨u, hu, hdu, hphase⟩ := hrun k le_rfl
    obtain ⟨t, ht, htinv, hconfig, hstopped, hrsp⟩ := hdu.step_completes (by omega)
    obtain ⟨hp, hnil, hout⟩ := htinv.stopped hstopped
    simp only [State.config, Prod.mk.injEq] at hconfig
    exact ⟨t, hu.trans ht, hstopped, hp, hnil, hout, hrsp, hconfig⟩

/-- Settles O6: START.LIST fails one of R110's checks; a channel command names servo 6 or 7; no other command has
illegal fields. -/
theorem illFormedCommandsAreRefused : Obligations.IllFormedCommandsAreRefused := by
  intro i s hbad
  cases i.hasFormat with
  | startList n p0 p1 p2 p3 p4 p5 =>
    cases hv : startListViolation n [p0, p1, p2, p3, p4, p5] with
    | none => exact absurd (wellFormed_of_no_violation (i := .startList n p0 p1 p2 p3 p4 p5) (Nat.zero_le 6) hv) hbad
    | some v =>
      have hcode := startListViolation_codes hv
      exact ⟨v, by tauto, exec_of_violation hv⟩
  | startKeep => exact absurd rfl hbad
  | formatN h => exact absurd h.wellFormed hbad
  | formatC h num => exact ⟨.eNum, by decide, exec_of_not_wellFormed_onChannel (h.onChannel num) hbad s⟩
  | formatV h num val => exact ⟨.eNum, by decide, exec_of_not_wellFormed_onChannel (h.onChannel num val) hbad s⟩

/-- Settles O14: the first failing check is the violation START.LIST answers. -/
theorem startListRefusesBadLists : Obligations.StartListRefusesBadLists := by
  intro s n p0 p1 p2 p3 p4 p5 p run countOk unusedOk pinsOk distinct
  have hrun {v : Violation} (hv : startListViolation n (List.ofFn p) = some v) : run = .next (Spec.refused s v) :=
    exec_of_violation hv
  have hchecks := startListViolation_ofFn_eq n p
  refine ⟨fun hn => hrun ?_, fun hn hz => hrun ?_, fun hn hz hp => hrun ?_, fun hn hz hp hd => hrun ?_⟩
  · rw [hchecks, if_pos hn]
  · rw [hchecks, if_neg (not_not.mpr hn), if_pos hz]
  · rw [hchecks, if_neg (not_not.mpr hn), if_neg (not_not.mpr hz), if_pos hp]
  · rw [hchecks, if_neg (not_not.mpr hn), if_neg (not_not.mpr hz), if_neg (not_not.mpr hp), if_pos hd]

/-- Settles O15: a valid list passes the checks, and then the table is configured and the timer enabled. -/
theorem startListReplacesTheTable : Obligations.StartListReplacesTheTable := by
  intro s n p0 p1 p2 p3 p4 p5 p hlist
  let c := s.configure n (List.ofFn p)
  have hrun : exec (.startList n p0 p1 p2 p3 p4 p5) s = .next (c.enableTimer.respond 0) := by
    obtain ⟨v, hv, -⟩ | ⟨-, h⟩ := execStartList_cases n p0 p1 p2 p3 p4 p5 s
    · exact nomatch hv.symm.trans (startListViolation_of_valid hlist)
    · exact h
  refine ⟨_, hrun, ?table, ?enabled, fun hs => ?running, fun hs => ?begins, ?frame⟩
  case table => simpa [c] using s.configure_ofFn_chan n p
  case enabled => simpa [c] using s.configure_ofFn_pinOe n p
  case running =>
    rw [State.enableTimer_of_started (s := c) hs]
    exact ⟨rfl, rfl⟩
  case begins => exact State.enableTimer_phase_of_stopped (s := c) hs
  case frame =>
    rw [State.enableTimer_eq]
    rfl

/-- Settles O48: the enabled block is at phase 0, so the tick of the same edge is a PeriodStart. -/
theorem resumeStartsAPeriodAtOnce : Obligations.ResumeStartsAPeriodAtOnce := by
  intro s rest hinv hs hin
  obtain ⟨hready, -, -⟩ := hinv.stopped hs
  let u := (s.beginStep rest).enableTimer.respond 0
  have hu : u.Inv := (hinv.beginStep rest).enableTimer.respond 0
  have hu0 : u.phase = 0 := State.enableTimer_phase_of_stopped (s := s.beginStep rest) hs
  have hchan (i : Fin 6) : u.chan i = s.chan i := by simp [u]
  have hcount : u.count = s.count := by simp [u]
  have hstep : step s = .next u.interpolate.emitEdges.advanceTimeline := by
    rw [step_of_accepted (i := .startKeep) hready hin rfl, ← State.tick_of_periodStart (s := u) (by simp [u]) hu0]
    simpa [u] using hready
  refine ⟨_, hstep, ?started, ?phase, ?rsp, ?count, fun i => ?chan, fun q => ?pins⟩
  case started => simp [u]
  case phase => rw [State.advanceTimeline_phase] <;> simp [hu0]
  case rsp => simp [u]
  case count => simp [u]
  case chan =>
    simp only [State.advanceTimeline_chan, State.emitEdges_chan, ← hchan i]
    exact ⟨hu.interpolate_chan_position i, u.interpolate_chan_eq i⟩
  case pins =>
    rw [State.advanceTimeline_pinHigh, hu.periodStart_pinHigh hu0]
    simp only [State.Configured, hchan, hcount]

/-- Settles O16: the two cases of R113. -/
theorem startKeepEnablesTheTimer : Obligations.StartKeepEnablesTheTimer := by
  intro s
  have hrun : exec .startKeep s = .next (s.enableTimer.respond 0) := rfl
  refine ⟨fun hs => ?_, fun hs => ?_⟩
  · rw [hrun, State.enableTimer_of_stopped hs]
    rfl
  · rw [hrun, State.enableTimer_of_started hs]
    rfl

/-- Settles O17: the three outcomes of STOP, of which each clause's premises leave one. -/
theorem stopAnswersCompletesOrWaits : Obligations.StopAnswersCompletesOrWaits := by
  intro s
  obtain ⟨hs, h⟩ | ⟨hs, hq, h⟩ | ⟨hs, hq, h⟩ := execStop_cases s
  · refine ⟨fun _ => h, ?_, ?_⟩ <;> simp [hs]
  · refine ⟨?_, fun _ _ => ⟨_, h, s.completeStop_pinHigh, rfl⟩, ?_⟩ <;> simp [hs, hq]
  · refine ⟨?_, ?_, fun _ _ => h⟩ <;> simp [hs, hq]

/-- Settles O18: the answer is the bit as R88 writes it. -/
theorem statusCommandsReportTheirBit : Obligations.StatusCommandsReportTheirBit := fun _ => ⟨rfl, rfl⟩

/-- Settles O19: the answer 0 is `moving` at 0, which by R44 shows no difference. -/
theorem notMovingMeansArrived : Obligations.NotMovingMeansArrived := by
  intro s t hinv hrun hrsp i hi
  by_contra hne
  have hmoving : s.moving = true := hinv.moving_of_differs i hi hne
  have ht : s.respond (boolData s.moving) = t := Host.Outcome.next.inj hrun
  simp [← ht, hmoving, boolData] at hrsp

end Sys2Proof.Proofs

/-! ## Proofs: what a channel command answers, by its servo number (R130 to R141) -/

namespace Sys2Proof.Machine

section ChannelAccess

variable {s : State} {num : Index} {val : Half} {i : Fin 6}

/-- R130: a channel command whose servo number is not configured. -/
theorem exec_onChannel_of_numIllegal {c : Instr} (h : c.OnChannel num) (hnum : Spec.NumIllegal s num) :
    exec c s = .next (Spec.refused s .eNum) := by
  obtain ⟨k, hk, -⟩ := h.exec_eq s
  rw [hk, s.withChannel_of_illegal k hnum]
  rfl

/-- A servo number that names channel `i` passes the check of R130. -/
theorem next_withChannel_of_names (h : Spec.Names s num i) (k : Fin 6 → State) :
    (.next (s.withChannel num k) : Result) = .next (k i) := by
  obtain ⟨hnum, hi⟩ := h
  rw [s.withChannel_of_configured k hnum hi]

theorem exec_setTarget_of_names (h : Spec.Names s num i) :
    exec (.setTarget num val) s = .next (s.setTarget i (ticksOfUs val)) := next_withChannel_of_names h _

theorem exec_setTargetHr_of_names (h : Spec.Names s num i) :
    exec (.setTargetHr num val) s = .next (s.setTarget i (ticksOfHr val)) := next_withChannel_of_names h _

theorem exec_setSpeed_of_names (h : Spec.Names s num i) :
    exec (.setSpeed num val) s = .next ((s.setChan i { s.chan i with speed := val }).respond 0) :=
  next_withChannel_of_names h _

theorem exec_getTargetHr_of_names (h : Spec.Names s num i) :
    exec (.getTargetHr num) s = .next (Spec.answered s (s.chan i).target) := next_withChannel_of_names h _

end ChannelAccess

/-! ### The clamps (R131) -/

theorem ticksOfUs_toNat (us : Half) : (ticksOfUs us).toNat = min us.toNat 2500 * 24 :=
  Nat.mod_eq_of_lt (show min us.toNat 2500 * 24 < 2 ^ 16 by omega)

theorem ticksOfHr_toNat (ticks : Half) : (ticksOfHr ticks).toNat = min ticks.toNat 60000 :=
  Nat.mod_eq_of_lt (by omega)

theorem ticksOfHr_eq_ite (ticks : Half) : ticksOfHr ticks = if ticks.toNat ≤ 60000 then ticks else 60000 := by
  apply BitVec.eq_of_toNat_eq
  rw [ticksOfHr_toNat]
  split
  · exact Nat.min_eq_left ‹_›
  · exact Nat.min_eq_right (Nat.le_of_not_le ‹_›)

/-! ### A set-target (R132, R133), and the ticks after it (R66) -/

theorem Channel.setTargetTicks_position_fast {c : Channel} {tt : Half} (h : c.speed = 0 ∨ c.position = 0 ∨ tt = 0) :
    (c.setTargetTicks tt).position = tt := if_pos h

theorem Channel.setTargetTicks_position_slow {c : Channel} {tt : Half}
    (h : ¬(c.speed = 0 ∨ c.position = 0 ∨ tt = 0)) : (c.setTargetTicks tt).position = c.position := if_neg h

theorem State.setTarget_chan_of_ne (s : State) {i j : Fin 6} (tt : Half) (h : j ≠ i) :
    (s.setTarget i tt).chan j = s.chan j :=
  s.setChan_chan_of_ne _ h

theorem State.setTarget_moving (s : State) (i : Fin 6) (tt : Half) :
    (s.setTarget i tt).moving = (s.moving || ((s.setTarget i tt).chan i).differs) := rfl

theorem State.setTarget_targetSet (s : State) (i : Fin 6) (tt : Half) :
    Spec.TargetSet s i tt.toNat (s.setTarget i tt) := by
  have hzero : tt.toNat = 0 ↔ tt = 0 := by rw [← BitVec.toNat_inj]; rfl
  rw [Spec.TargetSet, hzero]
  refine ⟨?target, fun hfast => ?fast, fun hslow => ?slow, s.setTarget_chan_pin i i tt, s.setTarget_chan_speed i i tt,
    fun j => s.setTarget_chan_of_ne tt, ?moving, rfl⟩
  case target => rw [State.setTarget_chan_self]; rfl
  case fast => rw [State.setTarget_chan_self, Channel.setTargetTicks_position_fast hfast]
  case slow => rw [State.setTarget_chan_self, Channel.setTargetTicks_position_slow hslow]
  case moving => simp [State.setTarget_moving, Channel.differs]

theorem State.tick_iterate_target (s : State) (i : Fin 6) (k : Nat) :
    (State.tick^[k] s).count = s.count ∧ ((State.tick^[k] s).chan i).target = (s.chan i).target := by
  induction k with
  | zero => exact ⟨rfl, rfl⟩
  | succ k ih =>
    obtain ⟨ihcount, ihtarget⟩ := ih
    obtain ⟨hcount, -, -, -, hchan⟩ := (State.tick^[k] s).tick_frame
    obtain ⟨-, htarget, -⟩ := hchan i
    rw [Function.iterate_succ_apply']
    exact ⟨hcount.trans ihcount, htarget.trans ihtarget⟩

end Sys2Proof.Machine

/-! ## Proofs: the statements on the channel access commands (R130 to R141) -/

namespace Sys2Proof.Proofs

open Sys2Proof Sys2Proof.Machine

/-- Settles O22: the channel takes R132's new target, in R131's ticks. -/
theorem setTargetWritesClampedMicroseconds : Obligations.SetTargetWritesClampedMicroseconds := by
  intro s num val
  refine ⟨fun i hi => ⟨_, exec_setTarget_of_names hi, ?_⟩,
    exec_onChannel_of_numIllegal (FormatV.setTarget.onChannel num val)⟩
  rw [← ticksOfUs_toNat]
  exact s.setTarget_targetSet i _

/-- Settles O23: as O22; the channel is still configured, so the getter answers the target just stored. -/
theorem setTargetHrWritesClampedTicks : Obligations.SetTargetHrWritesClampedTicks := by
  intro s num val
  refine ⟨fun i hi => ⟨_, exec_setTargetHr_of_names hi, ?set, ?get⟩,
    exec_onChannel_of_numIllegal (FormatV.setTargetHr.onChannel num val)⟩
  case set =>
    rw [← ticksOfHr_toNat]
    exact s.setTarget_targetSet i _
  case get =>
    rw [exec_getTargetHr_of_names (s := s.setTarget i (ticksOfHr val)) hi, State.setTarget_chan_self]
    rfl

/-- Settles O26: no tick writes a target or `count`. -/
theorem targetRoundTripsThroughTicks : Obligations.TargetRoundTripsThroughTicks := by
  intro s u num val i k hi hset
  obtain rfl : s.setTarget i (ticksOfHr val) = u :=
    Host.Outcome.next.inj ((exec_setTargetHr_of_names hi).symm.trans hset)
  obtain ⟨hcount, htarget⟩ := (s.setTarget i (ticksOfHr val)).tick_iterate_target i k
  have hnames : Spec.Names (State.tick^[k] (s.setTarget i (ticksOfHr val))) num i := ⟨hi.1, hcount ▸ hi.2⟩
  refine ⟨_, exec_getTargetHr_of_names hnames, ?_⟩
  rw [htarget, State.setTarget_chan_self, ← ticksOfHr_eq_ite]
  rfl

/-- Settles O21: the eight commands are the ones of the formats with a `num` field. -/
theorem badServoNumberIsRefused : Obligations.BadServoNumberIsRefused := by
  intro s num val hnum
  have hC {op : BitVec 4} {mk : Index → Instr} (h : FormatC op mk) : exec (mk num) s = .next (Spec.refused s .eNum) :=
    exec_onChannel_of_numIllegal (h.onChannel num) hnum
  have hV {op : BitVec 4} {mk : Index → Half → Instr} (h : FormatV op mk) :
      exec (mk num val) s = .next (Spec.refused s .eNum) :=
    exec_onChannel_of_numIllegal (h.onChannel num val) hnum
  exact ⟨hV .setTarget, hV .setTargetHr, hV .setSpeed, hC .getTarget, hC .getTargetHr, hC .getSpeed, hC .getPosition,
    hC .getPositionHr⟩

/-- Settles O24: one entry of the table is written, and of it one field. -/
theorem setSpeedWritesOnlySpeed : Obligations.SetSpeedWritesOnlySpeed := by
  intro s num val
  refine ⟨fun i hi => ⟨_, exec_setSpeed_of_names hi, ?self, fun j hj => ?others, rfl⟩,
    exec_onChannel_of_numIllegal (FormatV.setSpeed.onChannel num val)⟩
  case self => exact s.setChan_chan_self i _
  case others => exact s.setChan_chan_of_ne _ hj

/-- Settles O25: behind the check of R130 each command answers its field; R46 bounds the tick values. -/
theorem getCommandsAnswerTheirField : Obligations.GetCommandsAnswerTheirField := by
  intro s num
  refine ⟨fun i hi => ?names, fun hnum => ?illegal⟩
  case names =>
    have hanswer (k : Fin 6 → State) := next_withChannel_of_names hi k
    exact ⟨hanswer _, hanswer _, hanswer _, hanswer _, hanswer _,
      fun hinv => ⟨hinv.target_le i, hinv.position_le i⟩⟩
  case illegal =>
    obtain ⟨-, -, -, hget⟩ := badServoNumberIsRefused s num 0 hnum
    exact hget

end Sys2Proof.Proofs

/-! ## Proofs: what the command port leaves of the timer and the pulses, and where a pulse in flight can be after a step
(R41, R66, R157) -/

namespace Sys2Proof.Machine

section Port

variable {s t u : State}

/-- Every step answers a next state (R167, R185). -/
theorem step_next (s : State) : ∃ t, step s = .next t := by
  unfold step
  generalize s.beginStep _ = s'
  cases (takeInput s.hostInputs).1 with
  | command w =>
    obtain ⟨u, hu, -⟩ := s'.commandStep_portEffect w
    exact ⟨u, hu⟩
  | edge rst v w =>
    cases rst with
    | true => exact ⟨_, rfl⟩
    | false =>
      obtain ⟨u, hu, -⟩ := s'.clockEdge_portEffect v w
      exact ⟨u.tick, hu⟩

/-- No command writes the fall queue, moves the timeline of a started block, or raises a pin (R66). -/
theorem State.CommandEffect.frame (he : s.CommandEffect u) : u.fq = s.fq ∧ u.hostInputs = s.hostInputs ∧
    (s.started = true → u.phase = s.phase) ∧ ∀ q : Fin 6, u.pinHigh q.val = true → s.pinHigh q.val = true := by
  cases he with
  | refused v => exact ⟨rfl, rfl, fun _ => rfl, fun _ => id⟩
  | answered d => exact ⟨rfl, rfl, fun _ => rfl, fun _ => id⟩
  | listed n slots hlen hvalid =>
    refine ⟨by simp, by simp, fun hs => ?_, by simp [State.pinHigh]⟩
    rw [State.respond_phase, State.enableTimer_of_started (s := s.configure n slots) hs, State.configure_phase]
  | enabled =>
    refine ⟨by simp, by simp, fun hs => ?_, by simp [State.pinHigh]⟩
    rw [State.respond_phase, State.enableTimer_of_started hs]
  | stopped hs hq => exact ⟨rfl, rfl, fun _ => rfl, fun q hhigh => ((s.completeStop_pinHigh q).mp hhigh).1⟩
  | stopWaits hs hq => exact ⟨rfl, rfl, fun _ => rfl, fun _ => id⟩
  | targetSet i tt hi htt => exact ⟨rfl, rfl, fun _ => rfl, fun _ => id⟩
  | speedSet i v hi => exact ⟨rfl, rfl, fun _ => rfl, fun _ => id⟩

theorem State.PortEffect.frame (he : s.PortEffect u) : u.fq = s.fq ∧ u.hostInputs = s.hostInputs ∧
    (s.started = true → u.phase = s.phase) ∧ ∀ q : Fin 6, u.pinHigh q.val = true → s.pinHigh q.val = true := by
  cases he with
  | idle => exact ⟨rfl, rfl, fun _ => rfl, fun _ => id⟩
  | accepted _ hu => exact hu.frame

/-- A tick raises a pin only as a PeriodStart, for a channel with a width (R156). -/
theorem State.tick_pin_rises {q : Fin 6} (hlow : s.pinHigh q.val = false) (hhigh : s.tick.pinHigh q.val = true) :
    s.started = true ∧ s.phase = 0 ∧ s.tick.started = true ∧ s.tick.phase = 1 ∧ ∃ i : Fin 6,
      i.val < s.tick.count.toNat ∧ (s.tick.chan i).pin.toNat = q.val ∧ 0 < (s.tick.chan i).position.toNat := by
  by_cases hstart : s.started = true ∧ s.phase = 0 ∧ s.stopPending = false
  · obtain ⟨hs, h0, hp⟩ := hstart
    rw [State.tick_of_periodStart hs h0 hp] at hhigh ⊢
    rw [State.advanceTimeline_pinHigh] at hhigh
    have hrise := (State.emitEdges_pinOut_getLsbD s.interpolate q.isLt).mp hhigh
    obtain ⟨e, he, hpin⟩ := hrise.resolve_left (by simpa [State.pinHigh] using hlow)
    obtain ⟨i, hi, hpos, rfl⟩ := State.mem_emitEdges_fq.mp he
    refine ⟨hs, h0, by simpa using hs, ?_, i, by simpa using hi, by simpa using hpin, ?_⟩
    · rw [State.advanceTimeline_phase] <;> simp [h0]
    · simpa using half_toNat_pos hpos
  · obtain ⟨-, -, hkeeps⟩ := State.tick_of_not_periodStart hstart
    exact absurd (hkeeps q hhigh) (by simp [hlow])

end Port

section Flight

variable {s t : State} {e : FallEvent}

/-- The pin of a pulse in flight is high (R41). -/
theorem State.Inv.pinHigh_of_mem (h : s.Inv) (he : e ∈ s.fq) : s.pinHigh e.pin.toNat = true := by
  obtain ⟨-, -, hle⟩ := h.fq_range e he
  exact (h.pin_high_iff ⟨e.pin.toNat, by omega⟩).mpr ⟨e, he, rfl⟩

/-- The pin of a pulse in flight is low once the queue holds other pulses of that moment only (R40, R41). -/
theorem State.Inv.pinHigh_eq_false_of_gone (h : s.Inv) (ht : t.Inv) (he : e ∈ s.fq) (hsub : ∀ a ∈ t.fq, a ∈ s.fq)
    (hgone : e ∉ t.fq) : t.pinHigh e.pin.toNat = false := by
  obtain ⟨-, -, hle⟩ := h.fq_range e he
  by_contra hhigh
  obtain ⟨a, ha, hpin⟩ := (ht.pin_high_iff ⟨e.pin.toNat, by omega⟩).mp (by simpa using hhigh)
  obtain rfl : a = e := List.inj_on_of_nodup_map h.fq_pins_distinct (hsub a ha) he (BitVec.eq_of_toNat_eq hpin)
  exact hgone ha

/-- With a pulse in flight the tick takes exactly the due pulses from the queue (R158). -/
theorem State.Inv.tick_fq_of_mem (h : s.Inv) (he : e ∈ s.fq) :
    s.tick.fq = s.fq.filter fun a => decide (a.t.toNat ≠ s.phase) := by
  obtain ⟨hs, hpos, -⟩ := h.fq_phase e he
  rw [State.tick_fq_of_service hs (.inl (by omega)), h.serviceFalls_fq_eq_filter]

/-- One step from a pulse in flight: a bare command step leaves the queue, a clock edge takes exactly the due pulses
from it and the timeline advances while one is left (R66, R150, R158). -/
theorem State.Inv.step_of_mem (h : s.Inv) (hno : Spec.NoReset s) (hstep : step s = .next t) (he : e ∈ s.fq) :
    t.Inv ∧ t.hostInputs = s.hostInputs.tail ∧
      (¬Spec.IsEdge s ∧ t.fq = s.fq ∨
        Spec.IsEdge s ∧ (t.fq = s.fq.filter fun a => decide (a.t.toNat ≠ s.phase)) ∧
          (t.started = true → t.phase = (s.phase + 1) % 458752)) := by
  obtain ⟨v, w, rest, hin, -⟩ | ⟨-, u, hu, ht⟩ := step_cases hstep
  · exact absurd hin (hno v w rest)
  have hinv : u.Inv := hu.inv (h.beginStep _)
  obtain ⟨hfq, hinputs, hphase, -⟩ := hu.frame
  have htail : u.hostInputs = s.hostInputs.tail := by
    rw [hinputs, State.beginStep_hostInputs]
    cases s.hostInputs <;> rfl
  have hsame : u.phase = s.phase := hphase (h.fq_phase e he).1
  obtain ⟨hbare, rfl⟩ | ⟨hedge, rfl⟩ := ht
  · exact ⟨hinv, htail, .inl ⟨hbare, hfq⟩⟩
  · obtain ⟨-, -, -, htick, -⟩ := u.tick_frame
    have hpops := hinv.tick_fq_of_mem (hfq ▸ he)
    rw [hfq, hsame] at hpops
    refine ⟨hinv.tick, htick.trans htail, .inr ⟨hedge, hpops, fun hs => ?_⟩⟩
    rw [(State.tick_timeline_of_started hs hinv.wrap_le).1, hsame]

/-- A listed input that is an edge without reset (R63). -/
theorem State.PlainEdges.noReset (h : s.PlainEdges) : Spec.NoReset s := by
  intro v w rest hin
  obtain ⟨v', w', heq⟩ := h (.edge true v w) (by simp [hin])
  simp at heq

theorem State.PlainEdges.isEdge (h : s.PlainEdges) : Spec.IsEdge s := by
  intro w rest hin
  obtain ⟨v', w', heq⟩ := h (.command w) (by simp [hin])
  simp at heq

theorem State.PlainEdges.of_tail (h : s.PlainEdges) (ht : t.hostInputs = s.hostInputs.tail) : t.PlainEdges :=
  fun x hx => h x (List.mem_of_mem_tail (ht ▸ hx))

/-- Up to the edge of its time, a pulse stays in flight whatever commands the edges present (R157). -/
theorem State.Inv.runs_in_flight (h : s.Inv) (hplain : s.PlainEdges) (he : e ∈ s.fq) {j : Nat}
    (hj : s.phase + j ≤ e.t.toNat) :
    ∃ u, runs j s = .next u ∧ u.Inv ∧ u.PlainEdges ∧ e ∈ u.fq ∧ u.phase = s.phase + j := by
  induction j with
  | zero => exact ⟨s, rfl, h, hplain, he, (Nat.add_zero _).symm⟩
  | succ j ih =>
    obtain ⟨u, hrun, hu, hup, hue, hphase⟩ := ih (by omega)
    obtain ⟨t, hstep⟩ := step_next u
    obtain ⟨ht, htail, ⟨hbare, -⟩ | ⟨-, hfq, hnext⟩⟩ := hu.step_of_mem hup.noReset hstep hue
    · exact absurd hup.isEdge hbare
    have hlate : e.t.toNat ≠ u.phase := by omega
    have hte : e ∈ t.fq := by simp [hfq, hue, hlate]
    obtain ⟨-, hmax, -⟩ := hu.fq_range e hue
    have hadvance := hnext (ht.fq_phase e hte).1
    exact ⟨t, (run_succ_of_next hrun).trans hstep, ht, hup.of_tail htail, hte, by omega⟩

end Flight

end Sys2Proof.Machine

/-! ## Proofs: the statements on pulses in flight (R157) and on steps (R167) -/

namespace Sys2Proof.Proofs

open Sys2Proof Sys2Proof.Machine

/-- Settles O42: no command touches the queue, and the tick takes from it exactly the pulses of this phase. -/
theorem pulseInFlightFallsOnlyAtItsTime : Obligations.PulseInFlightFallsOnlyAtItsTime := by
  intro s t e h hno hstep he
  obtain ⟨ht, -, ⟨hbare, hfq⟩ | ⟨hedge, hfq, -⟩⟩ := h.step_of_mem hno hstep he
  · have hte : e ∈ t.fq := hfq ▸ he
    exact .inl ⟨hte, ht.pinHigh_of_mem hte, fun hedge => absurd hedge hbare⟩
  by_cases hdue : s.phase = e.t.toNat
  · have hgone : e ∉ t.fq := by simp [hfq, hdue]
    refine .inr ⟨hedge, hdue, hgone, h.pinHigh_eq_false_of_gone ht he (fun a ha => ?_) hgone⟩
    exact List.mem_of_mem_filter (hfq ▸ ha)
  · have hte : e ∈ t.fq := by simp [hfq, he, Ne.symm hdue]
    exact .inl ⟨hte, ht.pinHigh_of_mem hte, fun _ => hdue⟩

/-- Settles O44: the pulse is in flight up to the edge of its time, and O42 says what that edge does. -/
theorem pulseInFlightIsWholeUnderAnyCommands : Obligations.PulseInFlightIsWholeUnderAnyCommands := by
  intro s e h hplain he
  obtain ⟨-, -, hle⟩ := h.fq_phase e he
  have hflight (j : Nat) (hj : j ≤ e.t.toNat - s.phase) := h.runs_in_flight hplain he (j := j) (by omega)
  refine ⟨fun j hj => ?whole, ?falls⟩
  case whole =>
    obtain ⟨u, hrun, hu, -, hue, -⟩ := hflight j hj
    exact ⟨u, hrun, hu.pinHigh_of_mem hue⟩
  case falls =>
    obtain ⟨u, hrun, hu, hup, hue, hphase⟩ := hflight _ le_rfl
    obtain ⟨t, hstep⟩ := step_next u
    refine ⟨t, (run_succ_of_next hrun).trans hstep, ?_⟩
    obtain ⟨-, -, hearly⟩ | ⟨-, -, -, hlow⟩ := pulseInFlightFallsOnlyAtItsTime u t e hu hup.noReset hstep hue
    · exact absurd (by omega) (hearly hup.isEdge)
    · exact hlow

/-- Settles O43: no command raises a pin and no tick does off a PeriodStart, which raises the pins of the channels with
a width. -/
theorem pinsRiseOnlyAtPeriodStart : Obligations.PinsRiseOnlyAtPeriodStart := by
  intro s t q h hstep hlow hhigh
  obtain ⟨_, _, _, -, rfl⟩ | ⟨-, u, hu, ht⟩ := step_cases hstep
  · simp [State.pinHigh, State.reset] at hhigh
  obtain ⟨-, -, hphase, hpins⟩ := hu.frame
  have hulow : u.pinHigh q.val = false := by
    by_contra hn
    exact absurd (hpins q (by simpa using hn)) (by simpa [State.pinHigh] using hlow)
  obtain ⟨-, rfl⟩ | ⟨-, rfl⟩ := ht
  · simp [hulow] at hhigh
  obtain ⟨-, h0, hrise⟩ := State.tick_pin_rises hulow hhigh
  refine ⟨?_, hrise⟩
  cases hs0 : s.started
  · exact .inl rfl
  · exact .inr ((hphase hs0).symm.trans h0)

/-- Settles O10: every step is a reset, or the port's effect and perhaps a tick, which answers only a STOP that
waited. -/
theorem nothingStopsTheMachine : Obligations.NothingStopsTheMachine := by
  refine ⟨step_next, fun s => ?_⟩
  obtain ⟨hviol, hrsp⟩ := s.tick_viol_rsp
  exact ⟨hviol, hrsp.imp_right And.right⟩

end Sys2Proof.Proofs

/-! ## Proofs: the passes of several periods (R154, R155, R164) -/

namespace Sys2Proof.Machine

section Passes

variable (s : State) (i : Fin 6) (k : Nat)

theorem State.interpolate_iterate_frame : (State.interpolate^[k] s).count = s.count ∧
    ((State.interpolate^[k] s).chan i).target = (s.chan i).target ∧
    ((State.interpolate^[k] s).chan i).speed = (s.chan i).speed := by
  induction k with
  | zero => exact ⟨rfl, rfl, rfl⟩
  | succ k ih =>
    obtain ⟨hcount, htarget, hspeed⟩ := ih
    obtain ⟨-, htarget', hspeed'⟩ := (State.interpolate^[k] s).interpolate_chan_frame i
    rw [Function.iterate_succ_apply']
    exact ⟨hcount, htarget'.trans htarget, hspeed'.trans hspeed⟩

variable {s i}

/-- R155 iterated: `k` passes are one pass at `k` times the speed (R164). -/
theorem State.interpolate_iterate_position (hi : s.Configured i) (hspeed : 0 < (s.chan i).speed.toNat) :
    ((State.interpolate^[k] s).chan i).position.toNat =
      if (s.chan i).position.toNat ≤ (s.chan i).target.toNat then
        min ((s.chan i).position.toNat + k * (s.chan i).speed.toNat) (s.chan i).target.toNat
      else max ((s.chan i).position.toNat - k * (s.chan i).speed.toNat) (s.chan i).target.toNat := by
  induction k with
  | zero =>
    rw [Function.iterate_zero, id, Nat.zero_mul]
    split <;> omega
  | succ k ih =>
    obtain ⟨hcount, htarget, hsame⟩ := s.interpolate_iterate_frame i k
    have hi' : (State.interpolate^[k] s).Configured i := by rwa [State.Configured, hcount]
    rw [Function.iterate_succ_apply', State.interpolate_chan_position hi', Spec.afterPass, htarget, hsame, ih,
      if_neg hspeed.ne', Nat.succ_mul]
    generalize k * (s.chan i).speed.toNat = d
    split_ifs <;> omega

end Passes

theorem State.anyDiffers_iff_someDiffers (s : State) : s.anyDiffers = true ↔ Spec.SomeDiffers s := by
  simp [State.anyDiffers, State.mem_servos, Channel.differs, Spec.SomeDiffers]

/-- A set-target that leaves no difference leaves `moving` as it was (R133). -/
theorem State.setTarget_moving_of_arrived {s : State} {i : Fin 6} {tt : Half} (hi : s.Configured i)
    (hnone : ¬Spec.SomeDiffers (s.setTarget i tt)) : (s.setTarget i tt).moving = s.moving := by
  have hsame : ((s.setTarget i tt).chan i).differs = false := by
    by_contra hd
    exact hnone ⟨i, hi, by simpa [Channel.differs] using hd⟩
  rw [State.setTarget_moving, hsame, Bool.or_false]

theorem State.interpolate_moving_eq_false {s : State} (hnone : ¬Spec.SomeDiffers s) : s.interpolate.moving = false := by
  rw [← s.anyDiffers_iff_someDiffers, Bool.not_eq_true] at hnone
  exact hnone

/-- A set-target is refused, or is the set-target of a configured channel (R130). -/
theorem exec_setTarget_cases {s t : State} {num : Index} {val : Half}
    (h : exec (.setTarget num val) s = .next t ∨ exec (.setTargetHr num val) s = .next t) :
    t = s.raiseViolation .eNum ∨ ∃ i tt, s.Configured i ∧ t = s.setTarget i tt := by
  have hcases (f : Half → Half) (ht : .next (s.withChannel num fun i => s.setTarget i (f val)) = (.next t : Result)) :
      t = s.raiseViolation .eNum ∨ ∃ i tt, s.Configured i ∧ t = s.setTarget i tt := by
    obtain rfl := Host.Outcome.next.inj ht
    obtain ⟨-, hw⟩ | ⟨i, -, hi, hw⟩ := s.withChannel_cases num fun i => s.setTarget i (f val)
    · exact .inl hw
    · exact .inr ⟨i, f val, hi, hw⟩
  exact h.elim (hcases ticksOfUs) (hcases ticksOfHr)

end Sys2Proof.Machine

/-! ## Proofs: the order in which EmitEdges queues the falls (R156) -/

namespace Sys2Proof.Machine

section Order

variable (chan : Fin 6 → Channel)

/-- The fall of a channel's pulse, as EmitEdges queues it. -/
def Channel.fall (c : Channel) : FallEvent := ⟨c.position, c.pin⟩

/-- The pulse of servo `a` falls before that of servo `b`, or in the same tick with the lower servo number. -/
def FallsBefore (a b : Fin 6) : Prop :=
  (chan a).position.toNat < (chan b).position.toNat ∨ ((chan a).position = (chan b).position ∧ a < b)

/-- Inserting the fall of a servo number above all queued ones keeps the queue in the order of the rule. -/
theorem insertFall_ordered {order : List (Fin 6)} {i : Fin 6} (hord : order.Pairwise (FallsBefore chan))
    (hlt : ∀ j ∈ order, j < i) : ∃ order' : List (Fin 6), order'.Perm (i :: order) ∧
      order'.Pairwise (FallsBefore chan) ∧
      insertFall (chan i).fall (order.map fun j => (chan j).fall) = order'.map fun j => (chan j).fall := by
  induction order with
  | nil => exact ⟨[i], .refl _, List.pairwise_singleton _ _, rfl⟩
  | cons x xs ih =>
    obtain ⟨hx, hxs⟩ := List.pairwise_cons.mp hord
    rw [List.map_cons, insertFall]
    split
    case isTrue hle =>
      obtain ⟨order', hperm, hord', hmap⟩ := ih hxs fun j hj => hlt j (.tail x hj)
      refine ⟨x :: order', (hperm.cons x).trans (.swap i x xs), List.pairwise_cons.mpr ⟨fun a ha => ?_, hord'⟩, ?_⟩
      · obtain rfl | ha := List.mem_cons.mp (hperm.mem_iff.mp ha)
        · exact (Nat.lt_or_eq_of_le hle).imp id fun heq => ⟨BitVec.eq_of_toNat_eq heq, hlt x (.head xs)⟩
        · exact hx a ha
      · rw [List.map_cons, hmap]
    case isFalse hgt =>
      have hix : (chan i).position.toNat < (chan x).position.toNat := Nat.lt_of_not_le hgt
      refine ⟨i :: x :: xs, .refl _, List.pairwise_cons.mpr ⟨fun a ha => .inl ?_, hord⟩, rfl⟩
      obtain rfl | ha := List.mem_cons.mp ha
      · exact hix
      · obtain hxa | ⟨hxa, -⟩ := hx a ha
        · exact hix.trans hxa
        · exact hxa ▸ hix

/-- EmitEdges's loop over ascending servo numbers queues the falls of the channels with a width in the order of the
rule. -/
theorem emit_foldl_ordered (out : BitVec 6) (l : List (Fin 6)) (hl : l.Pairwise (· < ·)) :
    ∃ order : List (Fin 6), order.Perm (l.filter fun i => (chan i).position != 0) ∧ order.Pairwise (FallsBefore chan) ∧
      (l.foldl (fun acc i => emitChannel acc (chan i)) (out, [])).2 = order.map fun i => (chan i).fall := by
  induction l using List.reverseRecOn with
  | nil => exact ⟨[], .refl _, .nil, rfl⟩
  | append_singleton l i ih =>
    obtain ⟨hl, -, hlt⟩ := List.pairwise_append.mp hl
    obtain ⟨order, hperm, hord, hfq⟩ := ih hl
    rw [List.foldl_append, List.filter_append, List.foldl_cons, List.foldl_nil, emitChannel]
    split
    case isTrue h0 => exact ⟨order, by simpa [h0] using hperm, hord, hfq⟩
    case isFalse h0 =>
      have hbelow (j : Fin 6) (hj : j ∈ order) : j < i :=
        hlt j (List.mem_of_mem_filter (hperm.mem_iff.mp hj)) i (List.mem_singleton.mpr rfl)
      obtain ⟨order', hperm', hord', hfq'⟩ := insertFall_ordered chan hord hbelow
      refine ⟨order', ?_, hord', (congrArg (insertFall (chan i).fall) hfq).trans hfq'⟩
      rw [List.filter_singleton, bne_iff_ne.mpr h0]
      exact hperm'.trans ((hperm.cons i).trans (List.perm_append_singleton i _).symm)

end Order

theorem State.servos_ascending (s : State) : s.servos.Pairwise (· < ·) := List.Pairwise.filter _ (by decide)

theorem half_toNat_pos_iff (x : Half) : 0 < x.toNat ↔ x ≠ 0 :=
  ⟨fun h h0 => by simp [h0] at h, half_toNat_pos⟩

end Sys2Proof.Machine

/-! ## Proofs: fall service and the end of a tick in the cases of R159 to R161 -/

namespace Sys2Proof.Machine

section Service

variable {s : State} {p : Nat}

theorem State.tick_of_stopped (hs : s.started = false) : s.tick = s := by
  simp [State.tick, hs]

/-- The timeline's advance writes `cnt` and `wrap` only (R160). -/
theorem State.advanceTimeline_eq (s : State) :
    s.advanceTimeline = { s with cnt := s.advanceTimeline.cnt, wrap := s.advanceTimeline.wrap } := by
  unfold State.advanceTimeline
  split <;> rfl

/-- With no STOP pending, a tick off a PeriodStart is fall service and the timeline's advance (R150). -/
theorem State.tick_of_ready {s : State} (hs : s.started = true) (h0 : s.phase ≠ 0) (hp : s.stopPending = false) :
    s.tick = (s.serviceFalls s.phase).advanceTimeline := by
  obtain ⟨hs', -⟩ | ⟨-, h0', -⟩ | ⟨-, -, -, ht⟩ | ⟨-, hp', -⟩ := s.tick_cases
  · simp [hs] at hs'
  · exact absurd h0' h0
  · exact ht
  · simp [hp] at hp'

/-- R159 or R160 ends the tick. -/
theorem State.finishTick_eq (s : State) :
    s.finishTick = if s.stopPending = true ∧ s.fq = [] then s.completeStop else s.advanceTimeline := by
  simp [State.finishTick]

/-- Fall service at the time of every queued fall empties the queue and lowers all their pins (R158). -/
theorem State.serviceFalls_of_all_due (h : ∀ e ∈ s.fq, e.t.toNat = p) : (s.serviceFalls p).fq = [] ∧
    ∀ q : Fin 6, (s.serviceFalls p).pinHigh q.val = true ↔
      s.pinHigh q.val = true ∧ ∀ e ∈ s.fq, e.pin.toNat ≠ q.val := by
  obtain ⟨due, hsplit, -, hhead, hpins⟩ := s.serviceFalls_due p
  have hnil : (s.serviceFalls p).fq = [] := by
    rw [← List.head?_eq_none_iff, Option.eq_none_iff_forall_ne_some]
    intro e he
    exact hhead e he (h e (hsplit ▸ List.mem_append_right due (List.mem_of_head? he)))
  rw [hnil, List.append_nil] at hsplit
  exact ⟨hnil, hsplit ▸ hpins⟩

theorem State.serviceFalls_of_fq_nil (hnil : s.fq = []) : s.serviceFalls p = s := by
  rw [State.serviceFalls, hnil, serviceLoop, ← hnil]

/-- The tick that finds a STOP pending and every queued fall due completes the STOP (R159). -/
theorem State.tick_of_all_due (hs : s.started = true) (hp : s.stopPending = true)
    (hdue : ∀ e ∈ s.fq, e.t.toNat = s.phase) : s.tick = (s.serviceFalls s.phase).completeStop := by
  obtain ⟨hs', -⟩ | ⟨-, -, hp', -⟩ | ⟨-, -, hdrain, -⟩ | ⟨-, -, -, ht⟩ := s.tick_cases
  · simp [hs] at hs'
  · simp [hp] at hp'
  · exact absurd ⟨hp, (State.serviceFalls_of_all_due hdue).1⟩ hdrain
  · exact ht

end Service

end Sys2Proof.Machine

/-! ## Proofs: the statements on the scheduler's parts (R150 to R165) -/

namespace Sys2Proof.Proofs

open Sys2Proof Sys2Proof.Machine

/-- Settles O29: the end of the tick is R159 or R160, and at a PeriodStart `phase` is the 0 that fall service is called
with. -/
theorem tickRunsItsPartsInOrder : Obligations.TickRunsItsPartsInOrder := by
  intro s s1 s2
  rw [← State.finishTick_eq]
  cases hs : s.started
  · exact State.tick_of_stopped hs
  · by_cases hstart : s.phase = 0 ∧ s.stopPending = false
    · simp [State.tick, s2, s1, hs, hstart, State.periodStart]
    · simp [State.tick, s2, s1, hs, hstart]

/-- Settles O30: R155 for the configured entries; the pass writes the table's positions and `moving` only. -/
theorem interpolateMovesTowardTargets : Obligations.InterpolateMovesTowardTargets := by
  intro s
  exact ⟨fun i hi => ⟨State.interpolate_chan_position hi, s.interpolate_chan_eq i⟩,
    fun i hi => State.interpolate_chan_of_unused hi.not_gt, s.anyDiffers_iff_someDiffers, rfl⟩

/-- Settles O31: by the closed form of `k` passes. -/
theorem rampConvergesWithoutOvershoot : Obligations.RampConvergesWithoutOvershoot := by
  intro s i k hi hspeed p g q
  have hq := State.interpolate_iterate_position k hi hspeed
  change q = if p ≤ g then min (p + k * _) g else max (p - k * _) g at hq
  refine ⟨fun hle => ?_, fun hge => ?_, ?_⟩
  all_goals
    rw [hq]
    split_ifs <;> omega

/-- Settles O33: `moving` is the comparison before the last pass; a set-target writes it only for a difference. -/
theorem movingClearsOnePassAfterArrival : Obligations.MovingClearsOnePassAfterArrival := by
  refine ⟨fun s hsome hnone => ?passes, fun s t num val hrun hnone => ?setTarget⟩
  case passes => exact ⟨s.anyDiffers_iff_someDiffers.mpr hsome, State.interpolate_moving_eq_false hnone⟩
  case setTarget =>
    refine ⟨?_, State.interpolate_moving_eq_false hnone⟩
    obtain rfl | ⟨i, tt, hi, rfl⟩ := exec_setTarget_cases hrun
    · rfl
    · exact State.setTarget_moving_of_arrived hi hnone

/-- Settles O34: the loop visits the servo numbers in ascending order, so ties stay in that order. -/
theorem emitEdgesLoadsTheFallQueue : Obligations.EmitEdgesLoadsTheFallQueue := by
  intro s
  obtain ⟨order, hperm, hord, hfq⟩ := emit_foldl_ordered s.chan s.pinOut s.servos s.servos_ascending
  refine ⟨⟨order, hperm.nodup_iff.mpr (s.servos_nodup.filter _), fun i => ?members, hord, hfq⟩, fun q => ?pins, rfl⟩
  case members => simp [hperm.mem_iff, State.mem_servos, half_toNat_pos_iff, State.Configured]
  case pins =>
    simp only [half_toNat_pos_iff]
    refine (emit_foldl_pin s.chan s.servos (s.pinOut, []) q.val q.isLt).trans (or_congr_right ?_)
    simp only [State.mem_servos, State.Configured]

/-- Settles O35: the loop's split of the queue. -/
theorem fallServiceLowersDuePins : Obligations.FallServiceLowersDuePins := by
  intro s p
  obtain ⟨due, hsplit, hdue, hhead, hpins⟩ := s.serviceFalls_due p
  exact ⟨due, hsplit, hdue, hhead, hpins, rfl⟩

/-- Settles O38: fall service empties the queue, so the tick ends in R115's completion, which lowers the configured
pins too. -/
theorem lastFallCompletesPendingStop : Obligations.LastFallCompletesPendingStop := by
  intro s hs hp hdue
  obtain ⟨hnil, hpins⟩ := State.serviceFalls_of_all_due hdue
  rw [State.tick_of_all_due hs hp hdue]
  refine ⟨fun q => ?pins, ?frame⟩
  case pins =>
    rw [State.completeStop_pinHigh, hpins, and_assoc]
    rfl
  case frame =>
    rw [← hnil]
    rfl

/-- Settles O28: the tick tests `started` before anything else. -/
theorem stoppedTickChangesNothing : Obligations.StoppedTickChangesNothing := fun _ => State.tick_of_stopped

/-- Settles O36: the counter's carry into `wrap`, which starts over after the seventh. -/
theorem timelineAdvancesModuloPeriod : Obligations.TimelineAdvancesModuloPeriod := fun s hw =>
  ⟨State.advanceTimeline_phase_mod hw, State.advanceTimeline_wrap_le hw, s.advanceTimeline_eq⟩

/-- Settles O37: a started block only advances its timeline, a stopped one does nothing. -/
theorem idleTickMovesOnlyTheTimeline : Obligations.IdleTickMovesOnlyTheTimeline := by
  intro s hp hnil h0 hw
  obtain hs | hs := Bool.eq_false_or_eq_true s.started
  · rw [State.tick_of_ready hs h0 hp, State.serviceFalls_of_fq_nil hnil, if_pos hs]
    exact ⟨s.advanceTimeline_eq, State.advanceTimeline_phase_mod hw⟩
  · rw [State.tick_of_stopped hs, if_neg (by simp [hs])]
    exact ⟨rfl, rfl⟩

end Sys2Proof.Proofs

/-! ## Proofs: one whole period of a silent host (R163, R166) -/

namespace Sys2Proof.Machine

/-- The state with everything set aside that the timeline, the pulses in flight and the response are made of. -/
def State.withoutTimer (s : State) : State := { s with cnt := 0, wrap := 0, fq := [], pinOut := 0, rsp := none }

theorem State.withoutTimer_beginStep (s : State) : (s.beginStep s.hostInputs).withoutTimer = s.withoutTimer := rfl

theorem State.withoutTimer_emitEdges (s : State) : s.emitEdges.withoutTimer = s.withoutTimer := rfl

theorem State.withoutTimer_serviceFalls (s : State) (p : Nat) : (s.serviceFalls p).withoutTimer = s.withoutTimer := rfl

theorem State.withoutTimer_advanceTimeline (s : State) : s.advanceTimeline.withoutTimer = s.withoutTimer := by
  rw [State.advanceTimeline_eq]
  rfl

theorem State.phase_eq_zero_iff (s : State) : s.phase = 0 ↔ s.cnt = 0 ∧ s.wrap = 0 := by
  rw [State.phase_eq, ← BitVec.toNat_inj, ← BitVec.toNat_inj]
  simp only [BitVec.ofNat_eq_ofNat, BitVec.toNat_ofNat, Nat.zero_mod]
  omega

theorem State.eq_of_withoutTimer_eq {s t : State} (h : t.withoutTimer = s.withoutTimer) (hphase : t.phase = 0)
    (hphase' : s.phase = 0) (hfq : t.fq = s.fq) (hout : t.pinOut = s.pinOut) : t = { s with rsp := t.rsp } := by
  rw [State.phase_eq_zero_iff] at hphase hphase'
  cases s
  cases t
  simp_all [State.withoutTimer]

/-- A silent host's step is an idle edge (R12). -/
theorem step_of_silent {s : State} (hin : s.hostInputs = []) : step s = .next (s.beginStep s.hostInputs).tick := by
  simp [step, hin, takeInput, State.runInput, State.clockEdge]

/-- No STOP is pending at `phase` 0, where no pulse is in flight (R42, R43). -/
theorem State.Inv.ready_of_phase {s : State} (h : s.Inv) (h0 : s.phase = 0) : s.stopPending = false := by
  by_contra hp
  exact (h.stop_pending (by simpa using hp)).2 (h.flightInv.fq_eq_nil_of_phase h0)

/-- `v` is the block after edges 0 to `k - 1` of the period that began in `s`, with a silent host: the pass was made,
and the pulses of `k` ticks and more are still in flight. -/
structure State.InPeriod (s : State) (k : Nat) (v : State) : Prop where
  inv : v.Inv
  frame : v.withoutTimer = s.interpolate.withoutTimer
  phase_eq : v.phase = k % 458752
  fq_eq : v.fq = s.interpolate.emitEdges.fq.filter fun a => decide (k ≤ a.t.toNat)
  rsp_eq : v.rsp = none

section Period

variable {s v : State} {k : Nat} (h : s.Inv) (hs : s.started = true) (h0 : s.phase = 0) (hin : s.hostInputs = [])

include h

/-- After edge `k - 1` of the period, exactly the pulses of `k` ticks and more are high (R163). -/
theorem State.InPeriod.pinHigh (hv : InPeriod s k v) (hk : 1 ≤ k) {i : Fin 6} (hi : s.Configured i) :
    v.pinHigh (s.chan i).pin.toNat = decide (k ≤ Spec.afterPass (s.chan i)) := by
  have hpin (j : Fin 6) : (s.interpolate.chan j).pin = (s.chan j).pin := (s.interpolate_chan_frame j).1
  have hle := h.pin_le i
  rw [Bool.eq_iff_iff, decide_eq_true_iff, ← h.interpolate_chan_position i]
  refine (hv.inv.pin_high_iff ⟨(s.chan i).pin.toNat, by omega⟩).trans ?_
  simp only [hv.fq_eq, List.mem_filter, decide_eq_true_eq]
  constructor
  · rintro ⟨e, ⟨he, hke⟩, hp⟩
    obtain ⟨j, hj, -, rfl⟩ := State.mem_emitEdges_fq.mp he
    obtain rfl : j = i := h.pins_distinct j i hj hi ((hpin j).symm.trans (BitVec.eq_of_toNat_eq hp))
    exact hke
  · intro hke
    refine ⟨_, ⟨State.mem_emitEdges_fq.mpr ⟨i, hi, fun hz => ?_, rfl⟩, hke⟩, congrArg BitVec.toNat (hpin i)⟩
    simp [hz] at hke
    omega

include hs h0 hin

/-- Edge 0 of the period (R152). -/
theorem State.Inv.step_periodStart : ∃ v, step s = .next v ∧ InPeriod s 1 v := by
  let b := s.beginStep s.hostInputs
  have hb : b.Inv := h.beginStep s.hostInputs
  have htick : b.tick = b.interpolate.emitEdges.advanceTimeline :=
    State.tick_of_periodStart (s := b) hs h0 (h.ready_of_phase h0)
  refine ⟨b.tick, step_of_silent hin, hb.tick, ?frame, ?phase, ?fq, ?rsp⟩ <;> rw [htick]
  case frame => exact State.withoutTimer_advanceTimeline _
  case phase => rw [State.advanceTimeline_phase] <;> simp [b, h0]
  case fq =>
    rw [State.advanceTimeline_fq, List.filter_eq_self.mpr]
    · rfl
    · intro e he
      obtain ⟨i, -, hi, rfl⟩ := State.mem_emitEdges_fq.mp he
      exact decide_eq_true (half_toNat_pos hi)
  case rsp => simp [b]

/-- Each later edge of the period (R158, R160). -/
theorem State.InPeriod.next_edge (hv : InPeriod s k v) (hk : 1 ≤ k) (hlt : k < 458752) :
    ∃ w, step v = .next w ∧ InPeriod s (k + 1) w := by
  let b := v.beginStep v.hostInputs
  have hb : b.Inv := hv.inv.beginStep v.hostInputs
  have hphase : b.phase = k := hv.phase_eq.trans (Nat.mod_eq_of_lt hlt)
  have hstarted : b.started = true := (congrArg State.started hv.frame).trans hs
  have hready : b.stopPending = false := (congrArg State.stopPending hv.frame).trans (h.ready_of_phase h0)
  have hinputs : v.hostInputs = [] := (congrArg State.hostInputs hv.frame).trans hin
  have htick := State.tick_of_ready hstarted (by omega) hready
  refine ⟨b.tick, step_of_silent hinputs, hb.tick, ?frame, ?phase, ?fq, ?rsp⟩ <;> rw [htick]
  case frame => exact (State.withoutTimer_advanceTimeline _).trans hv.frame
  case phase =>
    rw [State.advanceTimeline_phase_mod (s := b.serviceFalls b.phase) hb.wrap_le, State.serviceFalls_phase, hphase]
  case fq =>
    rw [State.advanceTimeline_fq, hb.serviceFalls_fq_eq_filter, hphase, State.beginStep_fq, hv.fq_eq,
      List.filter_filter]
    refine List.filter_congr fun a _ => ?_
    rw [← Bool.decide_and, decide_eq_decide]
    omega
  case rsp => simp [b]

theorem State.Inv.runs_inPeriod (hk : 1 ≤ k) (hle : k ≤ 458752) : ∃ v, runs k s = .next v ∧ InPeriod s k v := by
  induction k, hk using Nat.le_induction with
  | base =>
    obtain ⟨v, hstep, hv⟩ := h.step_periodStart hs h0 hin
    exact ⟨v, (run_one (M := core) s).trans hstep, hv⟩
  | succ k hk ih =>
    obtain ⟨v, hrun, hv⟩ := ih (by omega)
    obtain ⟨w, hstep, hw⟩ := hv.next_edge h hs h0 hin hk (by omega)
    exact ⟨w, (run_succ_of_next hrun).trans hstep, hw⟩

end Period

end Sys2Proof.Machine

/-! ## Proofs: the statements on one period (R163, R166) -/

namespace Sys2Proof.Proofs

open Sys2Proof Sys2Proof.Machine

/-- Settles O45: `k + 1` edges into the period the pulses of more than `k` ticks are high. -/
theorem pulseIsExactlyPositionTicksWide : Obligations.PulseIsExactlyPositionTicksWide := by
  intro s i k h hs h0 hin hi hk
  obtain ⟨u, hrun, hu⟩ := h.runs_inPeriod hs h0 hin (k := k + 1) (by omega) (by omega)
  exact ⟨u, hrun, hu.pinHigh h (by omega) hi⟩

/-- Settles O46: after the last edge of the period no pulse is that long, and the timeline is back at 0. -/
theorem onePeriodInterpolatesOnce : Obligations.OnePeriodInterpolatesOnce := by
  intro s h hs h0 hin
  obtain ⟨u, hrun, hu⟩ := h.runs_inPeriod hs h0 hin (k := 458752) (by omega) le_rfl
  have hphase : u.phase = 0 := hu.phase_eq
  have hnil : u.fq = [] := hu.inv.flightInv.fq_eq_nil_of_phase hphase
  have hlow : u.pinOut = 0 := (hnil ▸ hu.inv.queueInv).pinOut_eq_zero
  have hnil' : s.fq = [] := h.flightInv.fq_eq_nil_of_phase h0
  have hlow' : s.pinOut = 0 := (hnil' ▸ h.queueInv).pinOut_eq_zero
  have hfinal : u = { s.interpolate with rsp := none } := by
    rw [← hu.rsp_eq]
    exact State.eq_of_withoutTimer_eq hu.frame hphase h0 (hnil.trans hnil'.symm) (hlow.trans hlow'.symm)
  have hchan (i : Fin 6) : u.chan i = s.interpolate.chan i := by rw [hfinal]; rfl
  have hposition (i : Fin 6) : (u.chan i).position.toNat = Spec.afterPass (s.chan i) :=
    hchan i ▸ h.interpolate_chan_position i
  refine ⟨u, hrun, fun i => ⟨hposition i, ?chan⟩, ?moving, hnil, hlow, hphase, ?frame, fun k hk => ?pins⟩
  case chan => rw [hchan]; exact s.interpolate_chan_eq i
  case moving => rw [hfinal]; exact s.anyDiffers_iff_someDiffers
  case frame => rw [hfinal]; rfl
  case pins =>
    obtain ⟨v, hrun, hv⟩ := h.runs_inPeriod hs h0 hin (k := k + 1) (by omega) (by omega)
    refine ⟨v, hrun, fun i hi => ?_⟩
    rw [hposition]
    exact hv.pinHigh h (by omega) hi

end Sys2Proof.Proofs

/-! ## Proofs: a frozen channel, the blocked command port and the reset edge (R63, R210, R218, R220) -/

namespace Sys2Proof.Machine

/-- A channel with `speed` 0 takes no step of R155, wherever its target is (R218). -/
theorem Channel.interpolate_of_frozen {c : Channel} (h : c.speed = 0) : c.interpolate = c := by
  have hstays : nextPosition c.position.toNat c.target.toNat c.speed.toNat = c.position.toNat := by
    simp [nextPosition, h]
  rw [Channel.interpolate, hstays, BitVec.ofNat_toNat, BitVec.setWidth_eq]

theorem State.interpolate_chan_of_frozen {s : State} {i : Fin 6} (h : (s.chan i).speed = 0) :
    s.interpolate.chan i = s.chan i := by
  rw [State.interpolate_chan, Channel.interpolate_of_frozen h, ite_self]

theorem State.interpolate_iterate_chan_of_frozen {s : State} {i : Fin 6} (h : (s.chan i).speed = 0) (k : Nat) :
    (State.interpolate^[k] s).chan i = s.chan i := by
  induction k with
  | zero => rfl
  | succ k ih => rw [Function.iterate_succ_apply', State.interpolate_chan_of_frozen (ih ▸ h), ih]

theorem State.commandStep_of_pending {s : State} (hp : s.stopPending = true) (w : CmdWord) :
    s.commandStep w = .next s := by
  simp [State.commandStep, State.cmdReady, hp]

/-- A bare command word that is not accepted leaves only the start of the step: the input taken, the response gone
(R64; log 5). -/
theorem step_of_pending_command {s : State} (hp : s.stopPending = true) {w : CmdWord} {rest : List HostInput}
    (hin : s.hostInputs = .command w :: rest) : step s = .next (s.beginStep rest) := by
  rw [step_of_input hin]
  exact State.commandStep_of_pending (s := s.beginStep rest) hp w

/-- Reset goes over everything, whatever command is presented (R63, R210). -/
theorem step_of_reset {s : State} {v : Bool} {w : CmdWord} {rest : List HostInput}
    (hin : s.hostInputs = .edge true v w :: rest) : step s = .next { State.reset with hostInputs := rest } :=
  step_of_input hin

/-- Every entry of the Channel Table is zero at reset (R211). -/
theorem State.reset_chan (i : Fin 6) : State.reset.chan i = Channel.zero := by
  fin_cases i <;> rfl

end Sys2Proof.Machine

/-! ## Proofs: the statements on reset and hazards (R210, R211, R218, R220) -/

namespace Sys2Proof.Proofs

open Sys2Proof Sys2Proof.Machine

/-- Settles O32: the passes keep the frozen entry, so each finds the difference again, and `moving` is that
comparison. -/
theorem frozenChannelKeepsMoving : Obligations.FrozenChannelKeepsMoving := by
  intro s i k hi hspeed hne
  have hchan := State.interpolate_iterate_chan_of_frozen hspeed k
  obtain ⟨hcount, -, -⟩ := s.interpolate_iterate_frame i k
  have hsome : Spec.SomeDiffers (State.interpolate^[k] s) := ⟨i, hcount ▸ hi, hchan ▸ hne⟩
  refine ⟨hchan, ?_⟩
  rw [Function.iterate_succ_apply', State.interpolate_moving]
  exact (State.anyDiffers_iff_someDiffers _).mpr hsome

/-- Settles O9: with a STOP pending both edges are the bare tick of the same state, and a bare command is not accepted. -/
theorem pendingStopBlocksThePort : Obligations.PendingStopBlocksThePort := by
  intro s v w rest hp
  refine ⟨fun hedge => ?edge, fun hcmd => step_of_pending_command hp hcmd⟩
  case edge =>
    have hidle := step_of_pending (s := { s with hostInputs := .edge false false 0 :: rest }) hp rfl
    exact (step_of_pending hp hedge).trans hidle.symm

/-- Settles O11: the edge's next state is the reset state with the inputs still to come. -/
theorem resetEdgeZeroesTheBlock : Obligations.ResetEdgeZeroesTheBlock := by
  intro s v w rest hin
  exact ⟨_, step_of_reset hin, State.reset_chan, rfl, rfl, rfl, rfl, rfl, rfl, rfl, rfl, rfl, rfl, rfl, rfl, rfl⟩

end Sys2Proof.Proofs
